-- ==== Sys2Proof/Word.lean ====
section
/-! DEFINITION. The value types of the Word256 core: a 256-bit word, its eight 32-bit limbs, its bytes (R5, R7, R8, R9). -/

namespace Sys2Proof

/-- A Word256: an unsigned integer below 2^256, bit 0 least significant (R7, R27, R28); WORD_BITS of R5. -/
abbrev Word := BitVec 256

/-- One limb, "one 32-bit unsigned component of the 256-bit value" (R8, R13); LIMB_BITS of R5. -/
abbrev Limb := BitVec 32

/-- One byte seen inside a Word256 (R9). -/
abbrev Byte := BitVec 8

end Sys2Proof
end

