-- ==== Sys2Proof/Config.lean ====
section
/-! DEFINITION. The fixed parameters (R5), the open parameter `T_PD` (R6, R255) and the free values of an erroneous response (R222). -/

namespace Sys2Proof.Config

/-- LIMBS (R5): "A Word256 always has exactly 8 limbs". -/
abbrev limbs : Nat := 8

/-- WORD_BYTES (R5): "a 4-byte-per-limb, 32-byte-total layout". -/
abbrev wordBytes : Nat := 32

/-- BYTES_PER_LIMB (R5, R181). -/
abbrev bytesPerLimb : Nat := 4

/-- SEXT_POSITIONS, the set S of the byte positions at which SEXT is defined (R5, R195). -/
abbrev sextPositions : List Nat := [0, 1, 2, 3, 7, 11, 15, 19, 23, 27, 31]

/-- `T_PD`, the propagation delay from stable inputs to valid outputs: an open parameter of the implementation that no
rule depends on (R6, R255), so no definition of the model reads it (assumption 7). -/
opaque propagationDelay : Nat

/-- FREE VALUE: what the core drives on `r` during the `n`-th erroneous presentation. R222 leaves it unspecified, and
it may differ between two presentations of one request (assumption 4). -/
opaque freeResult : Nat → Word

/-- FREE VALUE: what the core drives on `flag` during the `n`-th erroneous presentation (R222, assumption 4). -/
opaque freeFlag : Nat → BitVec 1

end Sys2Proof.Config
end

