-- ==== Sys2Proof/Machine/Operands.lean ====
section
/-! DEFINITION. Views of a Word256: limbs, `construct`, the two byte numberings, sign, zero and sign extension
(R8 to R11, R40 to R43, R90). -/

namespace Sys2Proof.Machine

/-- `limb(v, i) = v[32*i+31 : 32*i]` (R8): limb 0 is the least significant (R40). -/
def limb (v : Word) (i : Nat) : Limb := v.extractLsb' (32 * i) 32

/-- `construct(w7, ..., w0)`, also written `word(w7, ..., w0)`: eight limbs, most significant first, make one value
(R8, R41, R90). -/
def construct (w7 w6 w5 w4 w3 w2 w1 w0 : Limb) : Word :=
  BitVec.ofNat 256 (w7.toNat * 2 ^ 224 + w6.toNat * 2 ^ 192 + w5.toNat * 2 ^ 160 + w4.toNat * 2 ^ 128
    + w3.toNat * 2 ^ 96 + w2.toNat * 2 ^ 64 + w1.toNat * 2 ^ 32 + w0.toNat)

/-- `word(f 7, ..., f 0)`: the value whose limb i is `f i`, the form in which the limb-wise rules give a result. -/
def fromLimbs (f : Nat → Limb) : Word :=
  construct (f 7) (f 6) (f 5) (f 4) (f 3) (f 2) (f 1) (f 0)

/-- `byte_le(v, k) = v[8*k+7 : 8*k]` (R9): bytes counted from the least significant, SEXT's numbering (R43). -/
def byteLe (v : Word) (k : Nat) : Byte := v.extractLsb' (8 * k) 8

/-- `byte_be(v, n) = byte_le(v, 31 - n)` (R9): bytes counted from the most significant, BYTE's numbering (R42). -/
def byteBe (v : Word) (n : Nat) : Byte := byteLe v (31 - n)

/-- `sign(v) = v[255]`, bit 31 of limb 7 (R10, R160). -/
def signBit (v : Word) : Bool := (limb v 7).getLsbD 31

/-- `zext_256(x)` of one bit (R11, R148). -/
def zextBit (p : Bool) : Word := construct 0 0 0 0 0 0 0 (BitVec.ofNat 32 p.toNat)

/-- `zext_256(x)` of a limb (R11, R180). -/
def zextLimb (l : Limb) : Word := l.setWidth 256

/-- `sext_from(v, p)`: bits p:0 are those of `v`, and every bit above is `v[p]` (R11, R190). -/
def sextFrom (v : Word) (p : Nat) : Word := (v.setWidth (p + 1)).signExtend 256

end Sys2Proof.Machine
end

