-- ==== Sys2Proof/Syntax.lean ====
section
/-! DEFINITION. The operations of W256-CORE 1.0 as an inductive type: exactly the 18 constructors of the op code map (R64, R72). -/

namespace Sys2Proof

/-- One operation with the operands it reads. A format AB operation (R62) carries `a`, the document's first argument,
and `b`, its second. A format A operation carries `a` alone, because it ignores `b` (R66). An operand is the whole
256-bit port value, with no immediate, register or address form (R63). -/
inductive Instr where
  /-- COPY, op code 0x00 (R92). -/
  | copy (a : Word)
  /-- ADD, op code 0x01 (R100). -/
  | add (a b : Word)
  /-- SUB, op code 0x02: `a` is the minuend, `b` the subtrahend (R104). -/
  | sub (a b : Word)
  /-- AND, op code 0x03 (R120). -/
  | and (a b : Word)
  /-- OR, op code 0x04 (R121). -/
  | or (a b : Word)
  /-- XOR, op code 0x05 (R122). -/
  | xor (a b : Word)
  /-- NOT, op code 0x06 (R123). -/
  | not (a : Word)
  /-- ISZERO, op code 0x07 (R170). -/
  | isZero (a : Word)
  /-- EQ, op code 0x08 (R140). -/
  | eq (a b : Word)
  /-- NE, op code 0x09 (R141). -/
  | ne (a b : Word)
  /-- ULT, op code 0x0A (R143). -/
  | ult (a b : Word)
  /-- UGT, op code 0x0B (R144). -/
  | ugt (a b : Word)
  /-- ULE, op code 0x0C (R145). -/
  | ule (a b : Word)
  /-- UGE, op code 0x0D (R146). -/
  | uge (a b : Word)
  /-- SLT, op code 0x0E (R161). -/
  | slt (a b : Word)
  /-- SGT, op code 0x0F (R162). -/
  | sgt (a b : Word)
  /-- BYTE, op code 0x10: `a` is the value, `b` the index (R180). -/
  | byte (a b : Word)
  /-- SEXT, op code 0x11: `a` is the value, `b` the byte position (R190). -/
  | sext (a b : Word)
  deriving DecidableEq, Repr

end Sys2Proof
end

