-- ==== Sys2Proof/Decode.lean ====
section
/-! DEFINITION. The request word REQ[516:0], its total decoding and its encoder (R60 to R68). -/

namespace Sys2Proof

/-- The `op` field, REQ[516:512] (R60). -/
def opField (req : BitVec 517) : BitVec 5 := req.extractLsb' 512 5

/-- The `a` field, REQ[511:256] (R60). -/
def aField (req : BitVec 517) : Word := req.extractLsb' 256 256

/-- The `b` field, REQ[255:0] (R60). -/
def bField (req : BitVec 517) : Word := req.extractLsb' 0 256

/-- `REQ = {op, a, b}` (R60). -/
def requestWord (op : BitVec 5) (a b : Word) : BitVec 517 := op ++ a ++ b

/-- Why a request spells no operation. -/
inductive DecodeError where
  /-- The op code is one of the 14 reserved codes 0x12 to 0x1F (R67). -/
  | illegalOp (op : BitVec 5)
  deriving DecidableEq, Repr

/-- The op code map (R64): the operation an op code selects, applied to the operand fields. The choice looks at `op`
alone (R65), and a format A operation drops `b` (R66). -/
def decodeFields (op : BitVec 5) (a b : Word) : Except DecodeError Instr :=
  match op.toNat with
  | 0x00 => .ok (.copy a)
  | 0x01 => .ok (.add a b)
  | 0x02 => .ok (.sub a b)
  | 0x03 => .ok (.and a b)
  | 0x04 => .ok (.or a b)
  | 0x05 => .ok (.xor a b)
  | 0x06 => .ok (.not a)
  | 0x07 => .ok (.isZero a)
  | 0x08 => .ok (.eq a b)
  | 0x09 => .ok (.ne a b)
  | 0x0A => .ok (.ult a b)
  | 0x0B => .ok (.ugt a b)
  | 0x0C => .ok (.ule a b)
  | 0x0D => .ok (.uge a b)
  | 0x0E => .ok (.slt a b)
  | 0x0F => .ok (.sgt a b)
  | 0x10 => .ok (.byte a b)
  | 0x11 => .ok (.sext a b)
  | _ => .error (.illegalOp op)

/-- Decoding a request word, total on all 2^517 of them (R65). -/
def decode (req : BitVec 517) : Except DecodeError Instr :=
  decodeFields (opField req) (aField req) (bField req)

/-- The op code of an operation (R64). -/
def Instr.opCode : Instr → BitVec 5
  | .copy _ => 0x00
  | .add _ _ => 0x01
  | .sub _ _ => 0x02
  | .and _ _ => 0x03
  | .or _ _ => 0x04
  | .xor _ _ => 0x05
  | .not _ => 0x06
  | .isZero _ => 0x07
  | .eq _ _ => 0x08
  | .ne _ _ => 0x09
  | .ult _ _ => 0x0A
  | .ugt _ _ => 0x0B
  | .ule _ _ => 0x0C
  | .uge _ _ => 0x0D
  | .slt _ _ => 0x0E
  | .sgt _ _ => 0x0F
  | .byte _ _ => 0x10
  | .sext _ _ => 0x11

/-- The operand driven on port `a` (R62). -/
def Instr.operandA : Instr → Word
  | .copy a | .not a | .isZero a => a
  | .add a _ | .sub a _ | .and a _ | .or a _ | .xor a _ => a
  | .eq a _ | .ne a _ | .ult a _ | .ugt a _ | .ule a _ | .uge a _ | .slt a _ | .sgt a _ => a
  | .byte a _ | .sext a _ => a

/-- The operand driven on port `b` (R62): for a format A operation the canonical 0 (R66). -/
def Instr.operandB : Instr → Word
  | .copy _ | .not _ | .isZero _ => 0
  | .add _ b | .sub _ b | .and _ b | .or _ b | .xor _ b => b
  | .eq _ b | .ne _ b | .ult _ b | .ugt _ b | .ule _ b | .uge _ b | .slt _ b | .sgt _ b => b
  | .byte _ b | .sext _ b => b

/-- Whether the operation is of format AB, that is reads `b` (R62, R64). -/
def Instr.readsB : Instr → Bool
  | .copy _ | .not _ | .isZero _ => false
  | .add _ _ | .sub _ _ | .and _ _ | .or _ _ | .xor _ _ => true
  | .eq _ _ | .ne _ _ | .ult _ _ | .ugt _ _ | .ule _ _ | .uge _ _ | .slt _ _ | .sgt _ _ => true
  | .byte _ _ | .sext _ _ => true

/-- Whether the operation is a predicate operation, "whose result is 0 or 1" (R13, R64); every other is a value
operation. -/
def Instr.isPredicate : Instr → Bool
  | .isZero _ => true
  | .eq _ _ | .ne _ _ | .ult _ _ | .ugt _ _ | .ule _ _ | .uge _ _ | .slt _ _ | .sgt _ _ => true
  | .copy _ | .not _ => false
  | .add _ _ | .sub _ _ | .and _ _ | .or _ _ | .xor _ _ => false
  | .byte _ _ | .sext _ _ => false

/-- The request word of an operation, in canonical form (R60, R66, R70). -/
def encode (i : Instr) : BitVec 517 := requestWord i.opCode i.operandA i.operandB

/-- The request word of a word numbered as spec/opcode_table.json numbers it: its first word is the 5-bit `op` field
(table bits 4:0), and the operand words `a` (table bits 260:5) and `b` (table bits 516:261) count on from it. Bits at
`nbits` and above are 0 (assumption 5). -/
def tableRequest (nbits w : Nat) : BitVec 517 :=
  let bits := w % 2 ^ nbits
  requestWord (BitVec.ofNat 5 bits) (BitVec.ofNat 256 (bits >>> 5)) (BitVec.ofNat 256 (bits >>> 261))

/-- The operation the decoder reads from a table-numbered word, none where it spells no operation (R67). -/
def decodeTableWord (nbits w : Nat) : Option Instr :=
  match decode (tableRequest nbits w) with
  | .ok i => some i
  | .error _ => none

end Sys2Proof
end

