-- ==== Sys2Proof/Machine/State.lean ====
section
/-! DEFINITION. The state of the model, its faults and refusals, and the state after reset. The core itself has no
architectural state (R20 to R25, R45); the state holds its ports, the only place a value exists (R26, assumption 1). -/

namespace Sys2Proof.Machine

/-- The levels on the six ports of the core (R26): what the host drives, and what the core last drove in answer. -/
structure State where
  /-- Port `op`, in, 5 bits: operation select (R26, R64). -/
  op : BitVec 5
  /-- Port `a`, in, 256 bits: first operand (R26, R27). -/
  a : Word
  /-- Port `b`, in, 256 bits: second operand (R26, R27). -/
  b : Word
  /-- Port `r`, out, 256 bits: the result (R26). -/
  r : Word
  /-- Port `flag`, out, 1 bit: the Boolean form of a predicate result, 0 for a value operation (R26). -/
  flag : BitVec 1
  /-- Port `err`, out, 2 bits: 0 when the response is valid (R26, R220). -/
  err : BitVec 2
  deriving DecidableEq, Repr

/-- The errors of the core, complete (R220). R222: "A model gives an erroneous request the outcome fault with the
error name and no result value". -/
inductive Fault where
  /-- `err = 1`: `op` is in 0x12 .. 0x1F (R67, R220). Raised by `step` when the request decodes to no operation.
  Safe: no value is given where the core drives unspecified ones. -/
  | illegalOp (op : BitVec 5)
  /-- `err = 2`: SEXT with the whole of `b` outside the set S (R194, R220). Raised by `execSext`.
  Safe: no value is given where the core drives unspecified ones. -/
  | undefinedBytePosition (b : Word)
  deriving DecidableEq, Repr

/-- The refusals of the model. -/
inductive Refusal where
  /-- The instruction has no meaning in the model. Raised by `exec` only, and in this model by no arm: every
  instruction has its meaning. Safe. -/
  | notModelled (mnemonic : String)
  deriving DecidableEq, Repr

/-- The state before any request. The core has no reset and no reset value (R30, R250, R251): the input ports hold
what the host drives, which the spec does not know, and the model names 0 for them (DESIGN CHOICE, assumption 2); the
outputs follow from the inputs, and 0 is the response to that `COPY 0` (DEDUCED, assumption 3). -/
def State.reset : State where
  op := 0
  a := 0
  b := 0
  r := 0
  flag := 0
  err := 0

end Sys2Proof.Machine
end

