-- ==== Sys2Proof/Machine/Ops.lean ====
section
/-! DEFINITION. The named operations over the ports: driving a request, driving a valid response, raising an error,
and what the host samples (R26, R60, R61, R220 to R223, R253). -/

namespace Sys2Proof.Machine

/-- The answer of one request: the next port levels, a fault, or a refusal. -/
abbrev Result := Host.Outcome State Fault Refusal

/-- The request on the input ports, `REQ = {op, a, b}` (R60). -/
def State.request (s : State) : BitVec 517 := requestWord s.op s.a s.b

/-- The host drives a request on the input ports (R253); the outputs are not its to change (R29). -/
def State.drive (s : State) (req : BitVec 517) : State :=
  { s with op := opField req, a := aField req, b := bField req }

/-- A valid response: `r <- v; flag <- f; err <- 0` (R11, R26). The inputs are not changed (R29). -/
def State.respond (s : State) (v : Word) (f : BitVec 1) : State :=
  { s with r := v, flag := f, err := 0 }

/-- A value operation's response: `r <- v; flag <- 0; err <- 0` (R26). -/
def answerValue (v : Word) (s : State) : Result := .next (s.respond v 0)

/-- `raise X(info)` (R11, R222): the one way an error is taken. The core saves nothing, changes no mode and transfers
control nowhere (R226); the outcome is a fault with the error's name and no result value. -/
def raise (f : Fault) : Result := .fault f

/-- `code(X)`, the value of the `err` output for an error (R220). -/
def Fault.errCode : Fault → BitVec 2
  | .illegalOp _ => 1
  | .undefinedBytePosition _ => 2

/-- What the host samples on the output ports for one request (R61, R253). -/
structure Response where
  /-- `err`, RSP[258:257]. -/
  err : BitVec 2
  /-- `flag`, RSP[256]. -/
  flag : BitVec 1
  /-- `r`, RSP[255:0]. -/
  r : Word
  deriving DecidableEq, Repr

/-- `RSP = {err, flag, r}`, the response as one 259-bit word (R61). -/
def Response.word (p : Response) : BitVec 259 := p.err ++ p.flag ++ p.r

/-- The levels of the output ports of a state. -/
def State.response (s : State) : Response := ⟨s.err, s.flag, s.r⟩

/-- The response to the `n`-th erroneous presentation: `err` carries the code, `r` and `flag` are free values, which
"may differ between implementations and between two presentations of the same request" (R222). -/
def Fault.response (n : Nat) (f : Fault) : Response := ⟨f.errCode, Config.freeFlag n, Config.freeResult n⟩

/-- What the host samples for an answer, none for a refusal; `n` numbers the presentation (R222, R253). -/
def sample (n : Nat) : Result → Option Response
  | .next t => some t.response
  | .fault f => some (f.response n)
  | .refused _ => none

/-- The operation of the request on the input ports (R65). -/
def fetch (s : State) : Except DecodeError Instr := decode s.request

/-- What a request that spells no operation gets: `raise IllegalOp(op)` (R65, R67). -/
def rejectRequest : DecodeError → Result
  | .illegalOp op => raise (.illegalOp op)

end Sys2Proof.Machine
end

