-- ==== Sys2Proof/Machine/AddSub.lean ====
section
/-! DEFINITION. The limb-wise adder/subtractor: ADD, SUB and the two-step carry and borrow tests (R100 to R107). -/

namespace Sys2Proof.Machine

/-- `c[i]`, the carry into limb i of ADD (R100): `c[0] = 0` and `c[i+1] = t[i] div 2^32`. -/
def addCarry (a b : Word) : Nat → BitVec 1
  | 0 => 0
  | i + 1 => BitVec.ofNat 1 (((limb a i).toNat + (limb b i).toNat + (addCarry a b i).toNat) / 2 ^ 32)

/-- `s[i] = t[i] mod 2^32`, limb i of the sum (R100). -/
def addLimb (a b : Word) (i : Nat) : Limb :=
  BitVec.ofNat 32 ((limb a i).toNat + (limb b i).toNat + (addCarry a b i).toNat)

/-- `w[i]`, the borrow into limb i of SUB (R104): `w[0] = 0` and `w[i+1] = bool(t[i] < 0)`. -/
def subBorrow (a b : Word) : Nat → BitVec 1
  | 0 => 0
  | i + 1 => BitVec.ofBool (decide (((limb a i).toNat : Int) - (limb b i).toNat - (subBorrow a b i).toNat < 0))

/-- `d[i] = t[i] mod 2^32`, the non-negative residue, limb i of the difference (R104). -/
def subLimb (a b : Word) (i : Nat) : Limb :=
  BitVec.ofInt 32 (((limb a i).toNat : Int) - (limb b i).toNat - (subBorrow a b i).toNat)

/-- The exact two-step carry out of a limb, in 32-bit comparisons only (R102): the limb sum and `k1 | k2`. -/
def twoStepAdd (x y : Limb) (c : BitVec 1) : Limb × BitVec 1 :=
  let u := x + y
  let k1 := decide (u.toNat < x.toNat)
  let s := u + c.setWidth 32
  let k2 := decide (s.toNat < u.toNat)
  (s, BitVec.ofBool (k1 || k2))

/-- The exact two-step borrow out of a limb (R106): the limb difference and `k1 | k2`. -/
def twoStepSub (x y : Limb) (w : BitVec 1) : Limb × BitVec 1 :=
  let u := x - y
  let k1 := decide (x.toNat < y.toNat)
  let d := u - w.setWidth 32
  let k2 := decide (u.toNat < w.toNat)
  (d, BitVec.ofBool (k1 || k2))

/-- ADD (R100): `r <- word(s[7], ..., s[0])`; the carry out of limb 7 is discarded. -/
def execAdd (a b : Word) (s : State) : Result := answerValue (fromLimbs (addLimb a b)) s

/-- SUB (R104): `r <- word(d[7], ..., d[0])`; the borrow out of limb 7 is discarded. -/
def execSub (a b : Word) (s : State) : Result := answerValue (fromLimbs (subLimb a b)) s

end Sys2Proof.Machine
end

