-- ==== Sys2Proof/Machine/Bitwise.lean ====
section
/-! DEFINITION. The bitwise units: AND, OR, XOR, NOT, each limb by limb (R120 to R124). -/

namespace Sys2Proof.Machine

/-- AND (R120): `l[i] = limb(a,i) & limb(b,i)`. -/
def execAnd (a b : Word) (s : State) : Result := answerValue (fromLimbs fun i => limb a i &&& limb b i) s

/-- OR (R121): `l[i] = limb(a,i) | limb(b,i)`. -/
def execOr (a b : Word) (s : State) : Result := answerValue (fromLimbs fun i => limb a i ||| limb b i) s

/-- XOR (R122): `l[i] = limb(a,i) ^ limb(b,i)`. -/
def execXor (a b : Word) (s : State) : Result := answerValue (fromLimbs fun i => limb a i ^^^ limb b i) s

/-- NOT (R123): `l[i] = ~limb(a,i)` on 32 bits. -/
def execNot (a : Word) (s : State) : Result := answerValue (fromLimbs fun i => ~~~ limb a i) s

end Sys2Proof.Machine
end

