-- ==== Sys2Proof/Machine/Byte.lean ====
section
/-! DEFINITION. The byte extractor BYTE and the sign-extension shifter SEXT (R180 to R184, R190 to R196). -/

namespace Sys2Proof.Machine

/-- The result of BYTE (R180): the byte of `x` at `index`, counted from the most significant, taken by limb select,
shift and mask (R181); 0 for every index of 32 or more, the whole operand tested (R182). -/
def extractByte (x index : Word) : Word :=
  if Config.wordBytes ≤ index.toNat then 0
  else
    let n := index.toNat
    let j := 7 - n / Config.bytesPerLimb
    let q := n % Config.bytesPerLimb
    let sh := 8 * (3 - q)
    zextLimb ((limb x j >>> sh) &&& 0xFF)

/-- BYTE (R180): a value operation, `flag <- 0`, no error for any `b`. -/
def execByte (a b : Word) (s : State) : Result := answerValue (extractByte a b) s

/-- Whether the whole of `b`, read as an unsigned integer, is in the set S (R63, R194, R195). -/
def isSextPosition (b : Word) : Bool := Config.sextPositions.contains b.toNat

/-- SEXT (R190): in S, the byte at position `b`, counted from the least significant, is the new sign byte; outside S,
`raise UndefinedBytePosition(b)` (R194). -/
def execSext (a b : Word) (s : State) : Result :=
  if isSextPosition b then answerValue (sextFrom a (8 * b.toNat + 7)) s
  else raise (.undefinedBytePosition b)

end Sys2Proof.Machine
end

