-- ==== Sys2Proof/Machine/Flags.lean ====
section
/-! DEFINITION. The one flag the core drives: the result form of a predicate operation (R26, R148). No other flag
exists, and ADD and SUB indicate neither carry, borrow, overflow, zero nor sign (R23). -/

namespace Sys2Proof.Machine

/-- A predicate operation's response (R148): `flag <- p; r <- zext_256(p); err <- 0`. -/
def answerPredicate (p : Bool) (s : State) : Result := .next (s.respond (zextBit p) (BitVec.ofBool p))

end Sys2Proof.Machine
end

