-- ==== Sys2Proof/Machine/Compare.lean ====
section
/-! DEFINITION. The multi-limb comparators: ISZERO, EQ, NE, ULT, UGT, ULE, UGE, SLT, SGT (R140 to R148, R160 to R163,
R170, R171). LESS, EQUAL and GREATER of the spec are `Ordering.lt`, `Ordering.eq` and `Ordering.gt`. -/

namespace Sys2Proof.Machine

/-- "true iff every limb is 0" (R170). -/
def allLimbsZero (x : Word) : Bool := (List.range Config.limbs).all fun i => limb x i == 0

/-- "true iff all 8 limbs pairwise equal" (R140). -/
def allLimbsEqual (x y : Word) : Bool := (List.range Config.limbs).all fun i => limb x i == limb y i

/-- The limb scan over limbs n-1 down to 0 (R142): decided at the first limb where the operands differ. -/
def scanLimbs (x y : Word) : Nat → Ordering
  | 0 => .eq
  | i + 1 =>
    if limb x i ≠ limb y i then
      if (limb x i).toNat < (limb y i).toNat then .lt else .gt
    else scanLimbs x y i

/-- `ucmp(x, y)`: the scan from limb 7 down to limb 0 (R142). -/
def ucmp (x y : Word) : Ordering := scanLimbs x y Config.limbs

/-- `scmp(x, y)`: the signs decide when they differ, else the unsigned scan (R160). -/
def scmp (x y : Word) : Ordering :=
  if signBit x ≠ signBit y then
    if signBit x then .lt else .gt
  else ucmp x y

/-- ISZERO (R170). -/
def execIsZero (a : Word) (s : State) : Result := answerPredicate (allLimbsZero a) s

/-- EQ (R140). -/
def execEq (a b : Word) (s : State) : Result := answerPredicate (allLimbsEqual a b) s

/-- NE (R141): "negation of equal". -/
def execNe (a b : Word) (s : State) : Result := answerPredicate (!allLimbsEqual a b) s

/-- ULT (R143): `p = bool(ucmp(a, b) = LESS)`. -/
def execUlt (a b : Word) (s : State) : Result := answerPredicate (ucmp a b == .lt) s

/-- UGT (R144): `p = bool(ucmp(a, b) = GREATER)`. -/
def execUgt (a b : Word) (s : State) : Result := answerPredicate (ucmp a b == .gt) s

/-- ULE (R145): "the complement of the strict opposite comparison". -/
def execUle (a b : Word) (s : State) : Result := answerPredicate (!(ucmp a b == .gt)) s

/-- UGE (R146): the complement of `unsigned_less`. -/
def execUge (a b : Word) (s : State) : Result := answerPredicate (!(ucmp a b == .lt)) s

/-- SLT (R161): `p = bool(scmp(a, b) = LESS)`. -/
def execSlt (a b : Word) (s : State) : Result := answerPredicate (scmp a b == .lt) s

/-- SGT (R162): `p = bool(scmp(a, b) = GREATER)`. -/
def execSgt (a b : Word) (s : State) : Result := answerPredicate (scmp a b == .gt) s

end Sys2Proof.Machine
end

