-- ==== Sys2Proof/Machine/Copy.lean ====
section
/-! DEFINITION. The operand pass-through: COPY (R92). -/

namespace Sys2Proof.Machine

/-- COPY (R92): `r <- a; flag <- 0; err <- 0`. -/
def execCopy (a : Word) (s : State) : Result := answerValue a s

end Sys2Proof.Machine
end

