-- ==== Sys2Proof/Machine/Dispatch.lean ====
section
/-! DEFINITION. One arm per operation: the table of meanings (R64). -/

namespace Sys2Proof.Machine

/-- The response of the core to one operation (R20, R64). -/
def exec (i : Instr) (s : State) : Host.Outcome State Fault Refusal :=
  match i with
  | .copy a => Sys2Proof.Machine.execCopy a s
  | .add a b => Sys2Proof.Machine.execAdd a b s
  | .sub a b => Sys2Proof.Machine.execSub a b s
  | .and a b => Sys2Proof.Machine.execAnd a b s
  | .or a b => Sys2Proof.Machine.execOr a b s
  | .xor a b => Sys2Proof.Machine.execXor a b s
  | .not a => Sys2Proof.Machine.execNot a s
  | .isZero a => Sys2Proof.Machine.execIsZero a s
  | .eq a b => Sys2Proof.Machine.execEq a b s
  | .ne a b => Sys2Proof.Machine.execNe a b s
  | .ult a b => Sys2Proof.Machine.execUlt a b s
  | .ugt a b => Sys2Proof.Machine.execUgt a b s
  | .ule a b => Sys2Proof.Machine.execUle a b s
  | .uge a b => Sys2Proof.Machine.execUge a b s
  | .slt a b => Sys2Proof.Machine.execSlt a b s
  | .sgt a b => Sys2Proof.Machine.execSgt a b s
  | .byte a b => Sys2Proof.Machine.execByte a b s
  | .sext a b => Sys2Proof.Machine.execSext a b s

end Sys2Proof.Machine
end

