-- ==== Sys2Proof/Machine/Step.lean ====
section
/-! DEFINITION. One step: the core answers the request on its input ports (R20, R65). -/

namespace Sys2Proof.Machine

/-- One request gives one response (R1, R65): the operation that `op` selects, or the error of a reserved code. -/
def step (s : State) : Host.Outcome State Fault Refusal :=
  match fetch s with
  | .ok i => exec i s
  | .error e => rejectRequest e

/-- `s` with a table-numbered request driven on its input ports, the only place the core takes a request from
(R22, R26, assumption 5); `step` answers exactly it. -/
def State.withFetchWord (s : State) (nbits w : Nat) : State := s.drive (tableRequest nbits w)

end Sys2Proof.Machine
end

