-- ==== Sys2Proof/Machine/Text.lean ====
section
/-! DEFINITION. The names of the operations and the textual form of a value, for host tools (R12, R64, R215). The core
has no print operation and no text output (R215); no step reads this file. -/

namespace Sys2Proof.Machine

/-- The mnemonic of an operation (R12, R64). -/
def mnemonic : Instr → String
  | .copy _ => "COPY"
  | .add _ _ => "ADD"
  | .sub _ _ => "SUB"
  | .and _ _ => "AND"
  | .or _ _ => "OR"
  | .xor _ _ => "XOR"
  | .not _ => "NOT"
  | .isZero _ => "ISZERO"
  | .eq _ _ => "EQ"
  | .ne _ _ => "NE"
  | .ult _ _ => "ULT"
  | .ugt _ _ => "UGT"
  | .ule _ _ => "ULE"
  | .uge _ _ => "UGE"
  | .slt _ _ => "SLT"
  | .sgt _ _ => "SGT"
  | .byte _ _ => "BYTE"
  | .sext _ _ => "SEXT"

/-- One hexadecimal digit, lower case as `%08x` gives it (R215). -/
def hexDigit (d : Nat) : Char := (['0', '1', '2', '3', '4', '5', '6', '7', '8', '9', 'a', 'b', 'c', 'd', 'e', 'f'])[d % 16]!

/-- A limb as `%08x`: eight digits, most significant first (R215). -/
def limbText (l : Limb) : List Char := [7, 6, 5, 4, 3, 2, 1, 0].map fun i => hexDigit (l.toNat / 16 ^ i)

/-- The diagnostic form of a value: limbs 7 to 0, space-separated (R7, R215). -/
def wordText (v : Word) : List Char :=
  limbText (limb v 7) ++ [6, 5, 4, 3, 2, 1, 0].flatMap fun i => ' ' :: limbText (limb v i)

end Sys2Proof.Machine
end

