-- ==== Sys2Proof/WellFormed.lean ====
section
/-! DEFINITION. What a well-formed request is: its op code is assigned (R64, R67). Nothing else can be ill-formed,
because "Every bit pattern on `a` and on `b` is a legal Word256" (R28). -/

namespace Sys2Proof

/-- The op code is one of the 18 assigned ones (R64): at most 0x11. -/
def opAssigned (op : BitVec 5) : Bool := decide (op.toNat ≤ 0x11)

/-- A request word that spells an operation (R65): the test looks at `op` alone. -/
def wellFormedRequest (req : BitVec 517) : Bool := opAssigned (opField req)

/-- A well-formed operation: its request word spells an operation. -/
def Instr.wf (i : Instr) : Bool := wellFormedRequest (encode i)

end Sys2Proof
end

