-- ==== Sys2Proof/Machine/Sequence.lean ====
section
/-! DEFINITION. The host's side of the interface: presenting a request, and the request sequences of R70. What the host
keeps between requests is the host's and no state of the core (R21), so it stands beside `State`, not in it. -/

namespace Sys2Proof.Machine

/-- The host drives one request and the core answers it (R253): an atomic function application. -/
def present (s : State) (req : BitVec 517) : Result := step (s.drive req)

/-- Requests issued one after the other from ports at the levels of `s`, with their answers in order (R46). An error
changes no state (R222, R226), and the request after an erroneous one is evaluated like any other (R227). -/
def issueAll (s : State) : List (BitVec 517) → List Result
  | [] => []
  | req :: rest =>
    present s req :: issueAll (match present s req with | .next t => t | .fault _ => s | .refused _ => s) rest

/-- A Word256 literal (R69): eight limbs, most significant first, in the print format or as `word(l7, ..., l0)`; or a
single number, in decimal or hexadecimal. -/
inductive Literal where
  | limbs (l7 l6 l5 l4 l3 l2 l1 l0 : Limb)
  | number (n : Nat)
  deriving DecidableEq, Repr

/-- The value a literal means (R69): its limbs put together, or its number zero-extended to 256 bits. -/
def Literal.value : Literal → Word
  | .limbs l7 l6 l5 l4 l3 l2 l1 l0 => construct l7 l6 l5 l4 l3 l2 l1 l0
  | .number n => BitVec.ofNat 256 n

/-- A literal that is a Word256: a number is below 2^256 (R7, R69). -/
def Literal.wf : Literal → Bool
  | .limbs _ _ _ _ _ _ _ _ => true
  | .number n => decide (n < 2 ^ 256)

/-- An operand of a sequence line: a literal, or a name bound by an earlier line (R70). Names are numbered
(assumption 8). -/
inductive Operand where
  | literal (l : Literal)
  | bound (name : Nat)
  deriving DecidableEq, Repr

/-- One line `name = MNEMONIC operand, operand` (R70), the mnemonic given by its op code (R64); a line of a format A
operation encodes `b = 0`. -/
structure Line where
  name : Nat
  op : BitVec 5
  first : Operand
  second : Operand
  deriving DecidableEq, Repr

/-- The host-side values, the latest binding first (R21, R70, assumption 8). -/
abbrev Names := List (Nat × Word)

/-- The value an operand drives on its port (R70): none if its name is not bound. -/
def Operand.value (names : Names) : Operand → Option Word
  | .literal l => some l.value
  | .bound name => names.lookup name

/-- The request a line issues (R70), none if an operand's name is not bound. -/
def Line.request (names : Names) (l : Line) : Option (BitVec 517) :=
  match l.first.value names, l.second.value names with
  | some a, some b => some (requestWord l.op a b)
  | _, _ => none

/-- How a sequence ends (R70). -/
inductive SequenceEnd where
  /-- Every line was answered: the names bound. -/
  | completed (names : Names)
  /-- A line's request erred: the names bound before it. No later line is issued (R70, R253). -/
  | erred (names : Names) (f : Fault)
  /-- A line uses a name that no earlier line binds: it is no line of the notation and issues nothing. -/
  | unbound (names : Names) (l : Line)
  /-- The model refused a line's request. -/
  | refused (names : Names) (r : Refusal)
  deriving DecidableEq, Repr

/-- Run by the host (R70): each line binds its name to the `r` of its response, and the first error ends the
sequence. -/
def runSequence (s : State) (names : Names) : List Line → SequenceEnd
  | [] => .completed names
  | l :: rest =>
    match l.request names with
    | none => .unbound names l
    | some req =>
      match present s req with
      | .next t => runSequence t ((l.name, t.r) :: names) rest
      | .fault f => .erred names f
      | .refused r => .refused names r

/-- An operand that is a literal or a name bound before (R70). -/
def Operand.wf (bound : List Nat) : Operand → Bool
  | .literal l => l.wf
  | .bound name => bound.contains name

/-- A line of the notation (R70): a mnemonic of R64, operands that are bound, and `b = 0` for format A, whose op codes
are 0x00, 0x06 and 0x07 (R64, R66). -/
def Line.wf (bound : List Nat) (l : Line) : Bool :=
  opAssigned l.op && l.first.wf bound && l.second.wf bound &&
    (!([0x00, 0x06, 0x07].contains l.op.toNat) || l.second == .literal (.number 0))

/-- A sequence of the notation: each line is one, given the names bound before it (R70). -/
def wfSequence (bound : List Nat) : List Line → Bool
  | [] => true
  | l :: rest => l.wf bound && wfSequence (l.name :: bound) rest

end Sys2Proof.Machine
end

