-- ==== Sys2Proof/Safety.lean ====
section
/-! DEFINITION. What a safe request is, and the invariant of the output ports, in the terms claims use. -/

namespace Sys2Proof.Machine

/-- The predicate operations by op code: 0x07 to 0x0F (R64). -/
def predicateCode (op : BitVec 5) : Bool := decide (0x07 ≤ op.toNat ∧ op.toNat ≤ 0x0F)

/-- The error table of R220, read off the fields of the request alone: IllegalOp for a reserved `op`, whatever `b`
holds; UndefinedBytePosition for `op = 0x11` with the whole of `b` outside S; otherwise none (R221, R223). -/
def errorOf (req : BitVec 517) : Option Fault :=
  if 0x12 ≤ (opField req).toNat then some (.illegalOp (opField req))
  else if opField req = 0x11 ∧ (bField req).toNat ∉ Config.sextPositions then
    some (.undefinedBytePosition (bField req))
  else none

/-- The request on the input ports is one the core answers with `err = 0` (R220, R221). -/
def State.Safe (s : State) : Prop := errorOf s.request = none

/-- The levels on the ports are a valid response to a valid request: no error applies and `err = 0` (R61, R220), a
predicate operation has `r = zext_256(flag)` and a value operation `flag = 0` (R26, R148). -/
def State.Inv (s : State) : Prop :=
  s.Safe ∧ s.err = 0 ∧
    (predicateCode s.op = true → s.r = s.flag.setWidth 256) ∧ (predicateCode s.op = false → s.flag = 0)

end Sys2Proof.Machine
end

