-- ==== Sys2Proof/Certificates/Slice0/Obligations.lean ====
section
/-! DEFINITION. The statements for the provers, each from the numbered rules of spec/ that its docstring names. A
result statement's conclusion is the whole next state, so it says the result, the flag, the completion and the frame at
once: `r`, `flag` and `err` are driven, and the input ports `op`, `a`, `b` are as before. -/

open Sys2Proof Sys2Proof.Machine

/-! ### Values: limbs, bytes and signs -/

/-- R90: `construct` is the weighted sum of its limbs, limb i of it is `wi`, and every value is `construct` of eight
limbs in exactly one way. -/
def Obligations.ConstructPlacesLimbs : Prop :=
  (∀ w7 w6 w5 w4 w3 w2 w1 w0 : Limb,
    let v := construct w7 w6 w5 w4 w3 w2 w1 w0
    v.toNat = w7.toNat * 2 ^ 224 + w6.toNat * 2 ^ 192 + w5.toNat * 2 ^ 160 + w4.toNat * 2 ^ 128
      + w3.toNat * 2 ^ 96 + w2.toNat * 2 ^ 64 + w1.toNat * 2 ^ 32 + w0.toNat ∧
    limb v 7 = w7 ∧ limb v 6 = w6 ∧ limb v 5 = w5 ∧ limb v 4 = w4 ∧
    limb v 3 = w3 ∧ limb v 2 = w2 ∧ limb v 1 = w1 ∧ limb v 0 = w0) ∧
  (∀ v : Word, v = construct (limb v 7) (limb v 6) (limb v 5) (limb v 4) (limb v 3) (limb v 2) (limb v 1) (limb v 0)) ∧
  (construct 0 0 0 0 0 0 0 0xFFFFFFFF).toNat = 2 ^ 32 - 1

/-- R42, R43: which limb, and which bits of it, hold the byte that each numbering names; the two are related by
n = 31 - k. -/
def Obligations.BytesLieInLimbs : Prop :=
  ∀ (v : Word) (k : Nat), k < 32 →
    byteBe v k = v.extractLsb' (248 - 8 * k) 8 ∧
    byteBe v k = (limb v (7 - k / 4)).extractLsb' (24 - 8 * (k % 4)) 8 ∧
    byteLe v k = v.extractLsb' (8 * k) 8 ∧
    byteLe v k = (limb v (k / 4)).extractLsb' (8 * (k % 4)) 8 ∧
    byteLe v k = byteBe v (31 - k)

/-- R10: the sign bit is bit 255, bit 31 of limb 7, and the signed reading is v - 2^256 * v[255]. -/
def Obligations.SignedReadingOfWord : Prop :=
  ∀ v : Word, signBit v = v.getLsbD 255 ∧ signBit v = (limb v 7).getLsbD 31 ∧
    v.toInt = (v.toNat : Int) - 2 ^ 256 * (signBit v).toNat ∧
    -2 ^ 255 ≤ v.toInt ∧ v.toInt ≤ 2 ^ 255 - 1

/-! ### Requests and responses as words, and decoding -/

/-- R60: `REQ = {op, a, b}`, and where the limbs of the operands lie in it. -/
def Obligations.RequestWordLayout : Prop :=
  ∀ (op : BitVec 5) (a b : Word),
    (requestWord op a b).toNat = op.toNat * 2 ^ 512 + a.toNat * 2 ^ 256 + b.toNat ∧
    (requestWord op a b).extractLsb' 512 5 = op ∧
    (∀ i < 8, limb a i = (requestWord op a b).extractLsb' (256 + 32 * i) 32) ∧
    (∀ i < 8, limb b i = (requestWord op a b).extractLsb' (32 * i) 32)

/-- R61: `RSP = {err, flag, r}`. -/
def Obligations.ResponseWordLayout : Prop :=
  ∀ p : Response,
    p.word.toNat = p.err.toNat * 2 ^ 257 + p.flag.toNat * 2 ^ 256 + p.r.toNat ∧
    p.word.extractLsb' 257 2 = p.err ∧ p.word.extractLsb' 256 1 = p.flag ∧ p.word.extractLsb' 0 256 = p.r

/-- R64: the op code map, row by row, with each row's mnemonic, format and class; 0x12 to 0x1F are reserved. -/
def Obligations.OpCodeMap : Prop :=
  (∀ a b : Word,
    decode (requestWord 0x00 a b) = .ok (.copy a) ∧ decode (requestWord 0x01 a b) = .ok (.add a b) ∧
    decode (requestWord 0x02 a b) = .ok (.sub a b) ∧ decode (requestWord 0x03 a b) = .ok (.and a b) ∧
    decode (requestWord 0x04 a b) = .ok (.or a b) ∧ decode (requestWord 0x05 a b) = .ok (.xor a b) ∧
    decode (requestWord 0x06 a b) = .ok (.not a) ∧ decode (requestWord 0x07 a b) = .ok (.isZero a) ∧
    decode (requestWord 0x08 a b) = .ok (.eq a b) ∧ decode (requestWord 0x09 a b) = .ok (.ne a b) ∧
    decode (requestWord 0x0A a b) = .ok (.ult a b) ∧ decode (requestWord 0x0B a b) = .ok (.ugt a b) ∧
    decode (requestWord 0x0C a b) = .ok (.ule a b) ∧ decode (requestWord 0x0D a b) = .ok (.uge a b) ∧
    decode (requestWord 0x0E a b) = .ok (.slt a b) ∧ decode (requestWord 0x0F a b) = .ok (.sgt a b) ∧
    decode (requestWord 0x10 a b) = .ok (.byte a b) ∧ decode (requestWord 0x11 a b) = .ok (.sext a b)) ∧
  (∀ (op : BitVec 5) (a b : Word), 0x12 ≤ op.toNat → decode (requestWord op a b) = .error (.illegalOp op)) ∧
  (∀ i : Instr,
    ["COPY", "ADD", "SUB", "AND", "OR", "XOR", "NOT", "ISZERO", "EQ", "NE", "ULT", "UGT", "ULE", "UGE", "SLT", "SGT",
      "BYTE", "SEXT"][i.opCode.toNat]? = some (mnemonic i) ∧
    (i.readsB = false ↔ i.opCode.toNat ∈ [0x00, 0x06, 0x07]) ∧
    (i.isPredicate = true ↔ 0x07 ≤ i.opCode.toNat ∧ i.opCode.toNat ≤ 0x0F))

/-- A written-out request word of each family of 95_test_vectors.md section 2 that holds operations (2.1 to 2.9, and so
of each unit of R2) decodes to the operation it is written for (R60, R64): COPY and ISZERO with the operands of vectors
V-COPY-4 and V-ISZERO-4, the others the request words of section 3. -/
def Obligations.WrittenOutWordsDecode : Prop :=
  decode 0x000123456789abcdeffedcba98765432100f1e2d3c4b5a69788796a5b4c3d2e1f0ffffffffffffffffffffffffffffffffffffffffffffffffffffffffffffffff#517
    = .ok (.copy 0x0123456789abcdeffedcba98765432100f1e2d3c4b5a69788796a5b4c3d2e1f0) ∧
  decode 0x01fffffffffffffffffffffffffffffffffffffffffffffffffffffffffffffffe0000000000000000000000000000000000000000000000000000000000000005#517
    = .ok (.add 0xfffffffffffffffffffffffffffffffffffffffffffffffffffffffffffffffe 5) ∧
  decode 0x0600000000000000000000000000000000000000000000000000000000000000050000000000000000000000000000000000000000000000000000000000000000#517
    = .ok (.not 5) ∧
  decode 0x0200000000000000000000000000000000000000000000000000000000000000000000000000000000000000000000000000000000000000000000000000000005#517
    = .ok (.sub 0 5) ∧
  decode 0x0bfffffffffffffffffffffffffffffffffffffffffffffffffffffffffffffffd0000000000000000000000000000000000000000000000000000000000000002#517
    = .ok (.ugt 0xfffffffffffffffffffffffffffffffffffffffffffffffffffffffffffffffd 2) ∧
  decode 0x0efffffffffffffffffffffffffffffffffffffffffffffffffffffffffffffffd0000000000000000000000000000000000000000000000000000000000000002#517
    = .ok (.slt 0xfffffffffffffffffffffffffffffffffffffffffffffffffffffffffffffffd 2) ∧
  decode 0x0700000000000000000000000000000001000000000000000000000000000000000000000000000000000000000000000000000000000000000000000000000000#517
    = .ok (.isZero (construct 0 0 0 1 0 0 0 0)) ∧
  decode 0x100123456789abcdeffedcba98765432100f1e2d3c4b5a69788796a5b4c3d2e1f0000000000000000000000000000000000000000000000000000000000000001f#517
    = .ok (.byte 0x0123456789abcdeffedcba98765432100f1e2d3c4b5a69788796a5b4c3d2e1f0 31) ∧
  decode 0x110123456789abcdeffedcba98765432100f1e2d3c4b5a69788796a5b4c3d2e1f00000000000000000000000000000000000000000000000000000000000000003#517
    = .ok (.sext 0x0123456789abcdeffedcba98765432100f1e2d3c4b5a69788796a5b4c3d2e1f0 3)

/-- R65: decoding is total, decided by `op` alone; the operands are the fields as they stand (R63), no value of `a` or
`b` makes a request undecodable, and a request that spells no operation gets the error IllegalOp. -/
def Obligations.DecodingIsTotal : Prop :=
  ∀ req : BitVec 517,
    if (req.extractLsb' 512 5).toNat ≤ 0x11 then
      ∃ i, decode req = .ok i ∧ i.opCode = req.extractLsb' 512 5 ∧ i.operandA = req.extractLsb' 256 256 ∧
        (i.readsB = true → i.operandB = req.extractLsb' 0 256)
    else decode req = .error (.illegalOp (req.extractLsb' 512 5)) ∧
      ∀ s : State, step (s.drive req) = .fault (.illegalOp (req.extractLsb' 512 5))

/-- Decoding an encoded operation gives it back, at every value of every operand (R60, R64). -/
def Obligations.DecodeOfEncode : Prop :=
  ∀ i : Instr, i.wf = true ∧ decode (encode i) = .ok i

/-- The other direction (R60, R64, R66): encoding what a request decodes to gives the request back, with `b` in its
canonical form 0 where the operation does not read it. -/
def Obligations.EncodeOfDecode : Prop :=
  ∀ (req : BitVec 517) (i : Instr), decode req = .ok i →
    encode i = requestWord (opField req) (aField req) (if i.readsB then bField req else 0)

/-- A step runs the operation its input ports spell (R1, R65), with nothing around it: no pc, no next instruction
(R22). -/
def Obligations.StepRunsDecodedInstr : Prop :=
  (∀ (s : State) (i : Instr), decode s.request = .ok i → step s = exec i s) ∧
  (∀ (s : State) (i : Instr), step (s.drive (encode i)) = exec i (s.drive (encode i)))

/-! ### Results: pass-through, adder/subtractor -/

/-- R92: COPY is the identity; `b` is ignored. -/
def Obligations.CopyIsIdentity : Prop :=
  ∀ (a b : Word) (s : State), decode (requestWord 0x00 a b) = .ok (.copy a) ∧
    exec (.copy a) s = .next { s with r := a, flag := 0, err := 0 }

/-- R100: the limb-wise sum with its carry chain, and the modular sum it equals. -/
def Obligations.AddCarryChain : Prop :=
  ∀ (a b : Word) (s : State), decode (requestWord 0x01 a b) = .ok (.add a b) ∧
    ∃ (r : Word) (c : Nat → Nat), c 0 = 0 ∧
      (∀ i < 8, c (i + 1) = ((limb a i).toNat + (limb b i).toNat + c i) / 2 ^ 32 ∧ c (i + 1) ≤ 1 ∧
        (limb r i).toNat = ((limb a i).toNat + (limb b i).toNat + c i) % 2 ^ 32) ∧
      r.toNat = (a.toNat + b.toNat) % 2 ^ 256 ∧
      exec (.add a b) s = .next { s with r := r, flag := 0, err := 0 }

/-- R101: ADD is exactly the sum modulo 2^256, of the unsigned and of the signed readings alike. -/
def Obligations.AddIsSumModulo : Prop :=
  ∀ (a b : Word) (s : State),
    exec (.add a b) s = .next { s with r := BitVec.ofNat 256 ((a.toNat + b.toNat) % 2 ^ 256), flag := 0, err := 0 } ∧
    exec (.add a b) s = .next { s with r := BitVec.ofInt 256 (a.toInt + b.toInt), flag := 0, err := 0 }

/-- R102: the two-step carry test is exact for all inputs of a limb step, its two parts are never both 1, with no carry
in it is the document's single test, and the case that the single test gets wrong. -/
def Obligations.TwoStepCarryIsExact : Prop :=
  (∀ (x y : Limb) (c : BitVec 1),
    twoStepAdd x y c = (BitVec.ofNat 32 ((x.toNat + y.toNat + c.toNat) % 2 ^ 32),
      BitVec.ofNat 1 ((x.toNat + y.toNat + c.toNat) / 2 ^ 32)) ∧
    ¬((x + y).toNat < x.toNat ∧ (x + y + c.setWidth 32).toNat < (x + y).toNat)) ∧
  (∀ x y : Limb,
    (twoStepAdd x y 0).2 = BitVec.ofBool (decide ((twoStepAdd x y 0).1.toNat < x.toNat)) ∧
    (twoStepAdd x y 0).2 = BitVec.ofBool (decide ((twoStepAdd x y 0).1.toNat < y.toNat))) ∧
  twoStepAdd 0xFFFFFFFF 0xFFFFFFFF 1 = (0xFFFFFFFF, 1)

/-- R103: identity, commutativity, associativity, the three carry cases, and doubling. -/
def Obligations.AddCornerCases : Prop :=
  ∀ s : State,
    (∀ x : Word, exec (.add x 0) s = .next { s with r := x, flag := 0, err := 0 } ∧
      exec (.add 0 x) s = .next { s with r := x, flag := 0, err := 0 }) ∧
    (∀ x y : Word, exec (.add x y) s = exec (.add y x) s) ∧
    (∀ x y z : Word, ∃ p q : Word, exec (.add x y) s = .next { s with r := p, flag := 0, err := 0 } ∧
      exec (.add y z) s = .next { s with r := q, flag := 0, err := 0 } ∧ exec (.add p z) s = exec (.add x q) s) ∧
    exec (.add (BitVec.allOnes 256) 1) s = .next { s with r := 0, flag := 0, err := 0 } ∧
    exec (.add (construct 0 0 0 0 0 0 0xFFFFFFFF 0xFFFFFFFF) (construct 0 0 0 0 0 0 0xFFFFFFFF 1)) s
      = .next { s with r := construct 0 0 0 0 0 1 0xFFFFFFFF 0, flag := 0, err := 0 } ∧
    exec (.add (construct 0x7FFFFFFF 0xFFFFFFFF 0xFFFFFFFF 0xFFFFFFFF 0xFFFFFFFF 0xFFFFFFFF 0xFFFFFFFF 0xFFFFFFFF) 1) s
      = .next { s with r := construct 0x80000000 0 0 0 0 0 0 0, flag := 0, err := 0 } ∧
    (∀ x : Word, exec (.add x x) s = .next { s with r := BitVec.ofNat 256 (2 * x.toNat % 2 ^ 256), flag := 0, err := 0 })

/-- R104: the limb-wise difference with its borrow chain, and the modular difference it equals. -/
def Obligations.SubBorrowChain : Prop :=
  ∀ (a b : Word) (s : State), decode (requestWord 0x02 a b) = .ok (.sub a b) ∧
    ∃ (r : Word) (w : Nat → Nat), w 0 = 0 ∧
      (∀ i < 8, w (i + 1) = (if ((limb a i).toNat : Int) - (limb b i).toNat - w i < 0 then 1 else 0) ∧
        ((limb r i).toNat : Int) = (((limb a i).toNat : Int) - (limb b i).toNat - w i) % 2 ^ 32) ∧
      (r.toNat : Int) = ((a.toNat : Int) - b.toNat) % 2 ^ 256 ∧
      exec (.sub a b) s = .next { s with r := r, flag := 0, err := 0 }

/-- R105: SUB is exactly the non-negative residue of the difference modulo 2^256, of both readings, and it is
`ADD a, (ADD (NOT b), 1)`. -/
def Obligations.SubIsDifferenceModulo : Prop :=
  ∀ (a b : Word) (s : State),
    exec (.sub a b) s = .next { s with
      r := BitVec.ofNat 256 (((a.toNat : Int) - b.toNat) % 2 ^ 256).toNat, flag := 0, err := 0 } ∧
    exec (.sub a b) s = .next { s with r := BitVec.ofInt 256 (a.toInt - b.toInt), flag := 0, err := 0 } ∧
    ∃ n m : Word, exec (.not b) s = .next { s with r := n, flag := 0, err := 0 } ∧
      exec (.add n 1) s = .next { s with r := m, flag := 0, err := 0 } ∧ exec (.sub a b) s = exec (.add a m) s

/-- R106: the two-step borrow test is exact for all inputs of a limb step, its first part has the second form the rule
gives, its two parts are never both 1, with no borrow in it is the document's single test, and the case that the
single test gets wrong. -/
def Obligations.TwoStepBorrowIsExact : Prop :=
  (∀ (x y : Limb) (w : BitVec 1),
    twoStepSub x y w = (BitVec.ofInt 32 ((x.toNat : Int) - y.toNat - w.toNat),
      BitVec.ofBool (decide ((x.toNat : Int) - y.toNat - w.toNat < 0))) ∧
    (x.toNat < y.toNat ↔ x.toNat < (x - y).toNat) ∧
    ((x - y).toNat < w.toNat ↔ x - y = 0 ∧ w = 1) ∧
    ¬(x.toNat < y.toNat ∧ (x - y).toNat < w.toNat)) ∧
  (∀ x y : Limb, (twoStepSub x y 0).2 = BitVec.ofBool (decide (x.toNat < (twoStepSub x y 0).1.toNat))) ∧
  (∀ x : Limb, twoStepSub x 0xFFFFFFFF 1 = (x, 1))

/-- R107: SUB x, x; SUB x, 0; negation; the two borrow cases; SUB undoes ADD; SUB is neither commutative nor
associative. -/
def Obligations.SubCornerCases : Prop :=
  ∀ s : State,
    (∀ x : Word, exec (.sub x x) s = .next { s with r := 0, flag := 0, err := 0 } ∧
      exec (.sub x 0) s = .next { s with r := x, flag := 0, err := 0 } ∧
      exec (.sub 0 x) s = .next { s with r := BitVec.ofInt 256 (-x.toInt), flag := 0, err := 0 }) ∧
    exec (.sub 0 (construct 0x80000000 0 0 0 0 0 0 0)) s
      = .next { s with r := construct 0x80000000 0 0 0 0 0 0 0, flag := 0, err := 0 } ∧
    exec (.sub 0 1) s = .next { s with r := BitVec.allOnes 256, flag := 0, err := 0 } ∧
    exec (.sub (construct 0 0 0 0 0 1 5 0) (construct 0 0 0 0 0 0 0xFFFFFFFF 1)) s
      = .next { s with r := construct 0 0 0 0 0 0 5 0xFFFFFFFF, flag := 0, err := 0 } ∧
    (∀ x y : Word, ∃ p : Word, exec (.add x y) s = .next { s with r := p, flag := 0, err := 0 } ∧
      exec (.sub p y) s = .next { s with r := x, flag := 0, err := 0 }) ∧
    (∃ x y : Word, exec (.sub x y) s ≠ exec (.sub y x) s) ∧
    (∃ x y z p q : Word, exec (.sub x y) s = .next { s with r := p, flag := 0, err := 0 } ∧
      exec (.sub y z) s = .next { s with r := q, flag := 0, err := 0 } ∧ exec (.sub p z) s ≠ exec (.sub x q) s)

/-! ### Results: bitwise units -/

/-- R120, R121, R122: AND, OR and XOR, bit by bit and limb by limb. -/
def Obligations.AndOrXorResults : Prop :=
  ∀ (a b : Word) (s : State),
    decode (requestWord 0x03 a b) = .ok (.and a b) ∧ decode (requestWord 0x04 a b) = .ok (.or a b) ∧
    decode (requestWord 0x05 a b) = .ok (.xor a b) ∧
    exec (.and a b) s = .next { s with r := a &&& b, flag := 0, err := 0 } ∧
    exec (.or a b) s = .next { s with r := a ||| b, flag := 0, err := 0 } ∧
    exec (.xor a b) s = .next { s with r := a ^^^ b, flag := 0, err := 0 } ∧
    ∀ i < 8, limb (a &&& b) i = limb a i &&& limb b i ∧ limb (a ||| b) i = limb a i ||| limb b i ∧
      limb (a ^^^ b) i = limb a i ^^^ limb b i

/-- R123: NOT, bit by bit, limb by limb and as a number; double complement; and `ADD (NOT x), 1 = SUB 0, x`. -/
def Obligations.NotIsComplement : Prop :=
  ∀ (a b : Word) (s : State), decode (requestWord 0x06 a b) = .ok (.not a) ∧
    ∃ r : Word, exec (.not a) s = .next { s with r := r, flag := 0, err := 0 } ∧
      (∀ n < 256, r.getLsbD n = !(a.getLsbD n)) ∧
      (∀ i < 8, (limb r i).toNat = 0xFFFFFFFF - (limb a i).toNat) ∧
      r.toNat = 2 ^ 256 - 1 - a.toNat ∧
      exec (.not r) s = .next { s with r := a, flag := 0, err := 0 } ∧
      exec (.add r 1) s = exec (.sub 0 a) s

/-- R124: no cross-limb interaction: a limb of the result depends on that limb of the operands only, and a bit on that
bit only; every input is accepted. -/
def Obligations.BitwiseNoCrossLimb : Prop :=
  (∀ (f : Word → Word → Instr), (f = .and ∨ f = .or ∨ f = .xor) → ∀ (a a' b b' : Word) (s : State),
    ∃ r r' : Word, exec (f a b) s = .next { s with r := r, flag := 0, err := 0 } ∧
      exec (f a' b') s = .next { s with r := r', flag := 0, err := 0 } ∧
      (∀ i < 8, limb a i = limb a' i → limb b i = limb b' i → limb r i = limb r' i) ∧
      (∀ n < 256, a.getLsbD n = a'.getLsbD n → b.getLsbD n = b'.getLsbD n → r.getLsbD n = r'.getLsbD n)) ∧
  (∀ (a a' : Word) (s : State),
    ∃ r r' : Word, exec (.not a) s = .next { s with r := r, flag := 0, err := 0 } ∧
      exec (.not a') s = .next { s with r := r', flag := 0, err := 0 } ∧
      (∀ i < 8, limb a i = limb a' i → limb r i = limb r' i) ∧
      (∀ n < 256, a.getLsbD n = a'.getLsbD n → r.getLsbD n = r'.getLsbD n))

/-! ### Results: comparators -/

/-- R148: the result form of every predicate operation: `r = word(0, ..., 0, p)` and `flag = p` for one truth value. -/
def Obligations.PredicateResultForm : Prop :=
  ∀ (i : Instr) (s : State), i.isPredicate = true →
    ∃ p : Bool, exec i s = .next { s with
      r := construct 0 0 0 0 0 0 0 (BitVec.ofNat 32 p.toNat), flag := BitVec.ofNat 1 p.toNat, err := 0 }

/-- R140, R141: EQ is equality of all 256 bits, that is of all 8 limbs, and NE its negation. -/
def Obligations.EqualityResults : Prop :=
  ∀ (a b : Word) (s : State),
    decode (requestWord 0x08 a b) = .ok (.eq a b) ∧ decode (requestWord 0x09 a b) = .ok (.ne a b) ∧
    exec (.eq a b) s = .next { s with
      r := BitVec.ofNat 256 (decide (a = b)).toNat, flag := BitVec.ofNat 1 (decide (a = b)).toNat, err := 0 } ∧
    exec (.ne a b) s = .next { s with
      r := BitVec.ofNat 256 (decide (a ≠ b)).toNat, flag := BitVec.ofNat 1 (decide (a ≠ b)).toNat, err := 0 } ∧
    (a = b ↔ ∀ i < 8, limb a i = limb b i)

/-- R142: the limb scan is decided at the first limb from the top where the operands differ, and is the order of the
unsigned values. -/
def Obligations.LimbScanIsUnsignedOrder : Prop :=
  ∀ x y : Word,
    (∀ i < 8, limb x i ≠ limb y i → (∀ j < 8, i < j → limb x j = limb y j) →
      ucmp x y = if (limb x i).toNat < (limb y i).toNat then .lt else .gt) ∧
    ((∀ i < 8, limb x i = limb y i) → ucmp x y = .eq) ∧
    (ucmp x y = .lt ↔ x.toNat < y.toNat) ∧ (ucmp x y = .eq ↔ x = y) ∧ (ucmp x y = .gt ↔ y.toNat < x.toNat)

/-- R143, R144, R145, R146: ULT, UGT, ULE and UGE are the unsigned orders of `a` and `b`, in that operand order. -/
def Obligations.UnsignedOrderResults : Prop :=
  ∀ (a b : Word) (s : State),
    decode (requestWord 0x0A a b) = .ok (.ult a b) ∧ decode (requestWord 0x0B a b) = .ok (.ugt a b) ∧
    decode (requestWord 0x0C a b) = .ok (.ule a b) ∧ decode (requestWord 0x0D a b) = .ok (.uge a b) ∧
    exec (.ult a b) s = .next { s with
      r := BitVec.ofNat 256 (decide (a.toNat < b.toNat)).toNat,
      flag := BitVec.ofNat 1 (decide (a.toNat < b.toNat)).toNat, err := 0 } ∧
    exec (.ugt a b) s = .next { s with
      r := BitVec.ofNat 256 (decide (a.toNat > b.toNat)).toNat,
      flag := BitVec.ofNat 1 (decide (a.toNat > b.toNat)).toNat, err := 0 } ∧
    exec (.ule a b) s = .next { s with
      r := BitVec.ofNat 256 (decide (a.toNat ≤ b.toNat)).toNat,
      flag := BitVec.ofNat 1 (decide (a.toNat ≤ b.toNat)).toNat, err := 0 } ∧
    exec (.uge a b) s = .next { s with
      r := BitVec.ofNat 256 (decide (a.toNat ≥ b.toNat)).toNat,
      flag := BitVec.ofNat 1 (decide (a.toNat ≥ b.toNat)).toNat, err := 0 }

/-- R147: for every `a` and `b` exactly one of UGT, ULT and EQ gives 1. -/
def Obligations.UnsignedTotalOrder : Prop :=
  ∀ (a b : Word) (s : State), ∃ g l e : BitVec 1,
    exec (.ugt a b) s = .next { s with r := g.setWidth 256, flag := g, err := 0 } ∧
    exec (.ult a b) s = .next { s with r := l.setWidth 256, flag := l, err := 0 } ∧
    exec (.eq a b) s = .next { s with r := e.setWidth 256, flag := e, err := 0 } ∧
    g.toNat + l.toNat + e.toNat = 1

/-- R160: the signs decide when they differ, else the unsigned scan does, and this is the order of the signed
readings. -/
def Obligations.SignedScanIsSignedOrder : Prop :=
  ∀ x y : Word,
    (x.getLsbD 255 = true → y.getLsbD 255 = false → scmp x y = .lt) ∧
    (x.getLsbD 255 = false → y.getLsbD 255 = true → scmp x y = .gt) ∧
    (x.getLsbD 255 = y.getLsbD 255 → scmp x y = ucmp x y) ∧
    (scmp x y = .lt ↔ x.toInt < y.toInt) ∧ (scmp x y = .eq ↔ x = y) ∧ (scmp x y = .gt ↔ y.toInt < x.toInt)

/-- R161, R162: SLT and SGT are the strict orders of the signed readings of `a` and `b`, in that operand order. -/
def Obligations.SignedOrderResults : Prop :=
  ∀ (a b : Word) (s : State),
    decode (requestWord 0x0E a b) = .ok (.slt a b) ∧ decode (requestWord 0x0F a b) = .ok (.sgt a b) ∧
    exec (.slt a b) s = .next { s with
      r := BitVec.ofNat 256 (decide (a.toInt < b.toInt)).toNat,
      flag := BitVec.ofNat 1 (decide (a.toInt < b.toInt)).toNat, err := 0 } ∧
    exec (.sgt a b) s = .next { s with
      r := BitVec.ofNat 256 (decide (a.toInt > b.toInt)).toNat,
      flag := BitVec.ofNat 1 (decide (a.toInt > b.toInt)).toNat, err := 0 }

/-- R163: the relations between the signed predicates, and the two orders that a host composes with ISZERO. -/
def Obligations.SignedRelations : Prop :=
  ∀ (a b : Word) (s : State),
    exec (.slt a b) s = exec (.sgt b a) s ∧
    exec (.slt a a) s = .next { s with r := 0, flag := 0, err := 0 } ∧
    exec (.sgt a a) s = .next { s with r := 0, flag := 0, err := 0 } ∧
    ∃ l g e : BitVec 1,
      exec (.slt a b) s = .next { s with r := l.setWidth 256, flag := l, err := 0 } ∧
      exec (.sgt a b) s = .next { s with r := g.setWidth 256, flag := g, err := 0 } ∧
      exec (.eq a b) s = .next { s with r := e.setWidth 256, flag := e, err := 0 } ∧
      l.toNat + g.toNat + e.toNat = 1 ∧
      exec (.isZero (g.setWidth 256)) s = .next { s with
        r := BitVec.ofNat 256 (decide (a.toInt ≤ b.toInt)).toNat,
        flag := BitVec.ofNat 1 (decide (a.toInt ≤ b.toInt)).toNat, err := 0 } ∧
      exec (.isZero (l.setWidth 256)) s = .next { s with
        r := BitVec.ofNat 256 (decide (a.toInt ≥ b.toInt)).toNat,
        flag := BitVec.ofNat 1 (decide (a.toInt ≥ b.toInt)).toNat, err := 0 }

/-- R170: ISZERO is 1 exactly for the value 0, that is when every limb is 0; applied twice it normalises a value to
0 or 1; `b` is ignored. -/
def Obligations.ZeroTestResults : Prop :=
  ∀ (a b : Word) (s : State), decode (requestWord 0x07 a b) = .ok (.isZero a) ∧
    exec (.isZero a) s = .next { s with
      r := BitVec.ofNat 256 (decide (a = 0)).toNat, flag := BitVec.ofNat 1 (decide (a = 0)).toNat, err := 0 } ∧
    (a = 0 ↔ ∀ i < 8, limb a i = 0) ∧
    exec (.isZero (BitVec.ofNat 256 (decide (a = 0)).toNat)) s = .next { s with
      r := BitVec.ofNat 256 (decide (a ≠ 0)).toNat, flag := BitVec.ofNat 1 (decide (a ≠ 0)).toNat, err := 0 }

/-- R171: `ISZERO a = EQ a, 0` for every `a`, and both complete. -/
def Obligations.ZeroTestIsEqualityWithZero : Prop :=
  ∀ (a : Word) (s : State), ∃ p : BitVec 1,
    exec (.isZero a) s = .next { s with r := p.setWidth 256, flag := p, err := 0 } ∧
    exec (.eq a (construct 0 0 0 0 0 0 0 0)) s = .next { s with r := p.setWidth 256, flag := p, err := 0 }

/-! ### Results: byte extraction and sign extension -/

/-- R180: BYTE is the byte of `a` that `b` counts from the most significant, zero-extended, and 0 for every `b` of 32
or more; below 32 it is the limb select, shift and mask of the rule. -/
def Obligations.ByteResults : Prop :=
  ∀ (a b : Word) (s : State), decode (requestWord 0x10 a b) = .ok (.byte a b) ∧
    exec (.byte a b) s = .next { s with
      r := if b.toNat < 32 then BitVec.ofNat 256 (a.toNat / 2 ^ (248 - 8 * b.toNat) % 256) else 0,
      flag := 0, err := 0 } ∧
    (b.toNat < 32 → exec (.byte a b) s = .next { s with
      r := BitVec.ofNat 256 ((limb a (7 - b.toNat / 4)).toNat / 2 ^ (8 * (3 - b.toNat % 4)) % 256),
      flag := 0, err := 0 })

/-- R181: the complete table: index 28 - 4j + q selects limb j, and of it bits 31-8q down to 24-8q. -/
def Obligations.ByteSelectionTable : Prop :=
  ∀ (a : Word) (s : State) (j q : Nat), j < 8 → q < 4 →
    exec (.byte a (BitVec.ofNat 256 (28 - 4 * j + q))) s = .next { s with
      r := ((limb a j).extractLsb' (24 - 8 * q) 8).setWidth 256, flag := 0, err := 0 }

/-- R182: an index of 32 or more, the whole of `b` tested, gives the value 0 and no error. -/
def Obligations.ByteIndexOutOfRange : Prop :=
  ∀ (a b : Word) (s : State), 32 ≤ b.toNat → exec (.byte a b) s = .next { s with r := 0, flag := 0, err := 0 }

/-- R184: the byte that BYTE calls index 31 - k is the one SEXT calls position k, and its bit 7 is the sign SEXT
fills with. -/
def Obligations.ByteAndSextCountOppositely : Prop :=
  ∀ (v : Word) (s : State) (k : Nat), k < 32 →
    exec (.byte v (BitVec.ofNat 256 (31 - k))) s
      = .next { s with r := (byteLe v k).setWidth 256, flag := 0, err := 0 } ∧
    (k ∈ Config.sextPositions → ∃ x : Word,
      exec (.sext v (BitVec.ofNat 256 k)) s = .next { s with r := x, flag := 0, err := 0 } ∧
      ∀ m < 32, k < m → byteLe x m = if (byteLe v k).getLsbD 7 then 0xFF else 0x00)

/-- R190: for `b` in S the result keeps bits p:0 of `a` with p = 8*b + 7 and fills every bit above with bit p; for `b`
outside S the request errs. -/
def Obligations.SextResults : Prop :=
  ∀ (a b : Word) (s : State), decode (requestWord 0x11 a b) = .ok (.sext a b) ∧
    (b.toNat ∈ [0, 1, 2, 3, 7, 11, 15, 19, 23, 27, 31] → ∃ r : Word,
      exec (.sext a b) s = .next { s with r := r, flag := 0, err := 0 } ∧
      ∀ n < 256, r.getLsbD n = if n ≤ 8 * b.toNat + 7 then a.getLsbD n else a.getLsbD (8 * b.toNat + 7)) ∧
    (b.toNat ∉ [0, 1, 2, 3, 7, 11, 15, 19, 23, 27, 31] → exec (.sext a b) s = .fault (.undefinedBytePosition b))

/-- R191: the result byte by byte, as a number and as a signed number; the bytes of `a` above position k have no
effect. -/
def Obligations.SextByteByByte : Prop :=
  ∀ (a b : Word) (s : State), b.toNat ∈ Config.sextPositions →
    ∃ r : Word, exec (.sext a b) s = .next { s with r := r, flag := 0, err := 0 } ∧
      (∀ m < 32, byteLe r m =
        if m ≤ b.toNat then byteLe a m else if (byteLe a b.toNat).getLsbD 7 then 0xFF else 0x00) ∧
      r.toNat = a.toNat % 2 ^ (8 * b.toNat + 8)
        + (if (byteLe a b.toNat).getLsbD 7 then 2 ^ 256 - 2 ^ (8 * b.toNat + 8) else 0) ∧
      r.toInt = (a.setWidth (8 * b.toNat + 8)).toInt ∧
      (∀ a' : Word, (∀ m ≤ b.toNat, byteLe a' m = byteLe a m) → exec (.sext a' b) s = exec (.sext a b) s)

/-- R192: at a position that ends limb j, limbs 0 to j are preserved whole and every limb above is the fill. -/
def Obligations.SextAtLimbEnds : Prop :=
  ∀ (a : Word) (s : State) (j : Nat), j < 8 →
    ∃ r : Word, exec (.sext a (BitVec.ofNat 256 (4 * j + 3))) s = .next { s with r := r, flag := 0, err := 0 } ∧
      (∀ i ≤ j, limb r i = limb a i) ∧
      (∀ i < 8, j < i → limb r i = if (limb a j).getLsbD 31 then 0xFFFFFFFF else 0x00000000) ∧
      (j = 7 → r = a)

/-- R193: at the first three bytes of limb 0 that limb is changed in part, and every limb above is the fill. -/
def Obligations.SextInsideLimbZero : Prop :=
  ∀ (a : Word) (s : State) (k : Nat), k < 3 →
    let q := 8 * k + 7
    let fill : Limb := if (limb a 0).getLsbD q then 0xFFFFFFFF else 0x00000000
    let mask : Limb := BitVec.ofNat 32 (2 ^ (q + 1) - 1)
    ∃ r : Word, exec (.sext a (BitVec.ofNat 256 k)) s = .next { s with r := r, flag := 0, err := 0 } ∧
      limb r 0 = (limb a 0 &&& mask) ||| (fill &&& ~~~mask) ∧
      ∀ i < 8, 1 ≤ i → limb r i = fill

/-- R194: a byte position outside S, the whole of `b` tested, is the error UndefinedBytePosition with `err = 2`, for
every `a`; no value is given. -/
def Obligations.SextOutsideSetErrs : Prop :=
  ∀ (a b : Word) (s : State),
    (b.toNat ∈ [4, 5, 6, 8, 9, 10, 12, 13, 14, 16, 17, 18, 20, 21, 22, 24, 25, 26, 28, 29, 30] ∨ 32 ≤ b.toNat) →
    exec (.sext a b) s = .fault (.undefinedBytePosition b) ∧ (Fault.undefinedBytePosition b).errCode = 2

/-- R195: the set S against its own description, and the membership test on the limbs of `b`. -/
def Obligations.SextPositionTest : Prop :=
  Config.sextPositions = [0, 1, 2, 3, 7, 11, 15, 19, 23, 27, 31] ∧ Config.sextPositions.length = 11 ∧
  (∀ n : Nat, n ∈ Config.sextPositions ↔ (∃ j < 8, n = 4 * j + 3) ∨ n < 3) ∧
  (∀ b : Word, isSextPosition b = true ↔
    (∀ i < 8, 1 ≤ i → limb b i = 0) ∧ (limb b 0).toNat < 32 ∧
      ((limb b 0).extractLsb' 0 2 = 3 ∨ (limb b 0).toNat < 3))

/-- R196: position 31 is the identity, SEXT is idempotent and fixes 0 and all ones, positions 4 and 32 err for every
value, only bit 7 of the sign byte matters, and the worked values. -/
def Obligations.SextCornerCases : Prop :=
  ∀ s : State,
    (∀ x : Word, exec (.sext x 31) s = .next { s with r := x, flag := 0, err := 0 }) ∧
    (∀ x k : Word, k.toNat ∈ Config.sextPositions → ∃ y : Word,
      exec (.sext x k) s = .next { s with r := y, flag := 0, err := 0 } ∧
      exec (.sext y k) s = .next { s with r := y, flag := 0, err := 0 }) ∧
    (∀ k : Word, k.toNat ∈ Config.sextPositions →
      exec (.sext 0 k) s = .next { s with r := 0, flag := 0, err := 0 } ∧
      exec (.sext (BitVec.allOnes 256) k) s = .next { s with r := BitVec.allOnes 256, flag := 0, err := 0 }) ∧
    (∀ x : Word, exec (.sext x 4) s = .fault (.undefinedBytePosition 4) ∧
      exec (.sext x 32) s = .fault (.undefinedBytePosition 32)) ∧
    (∀ x k : Word, k.toNat ∈ Config.sextPositions → (byteLe x k.toNat = 0x80 ∨ byteLe x k.toNat = 0xFF) → ∃ r : Word,
      exec (.sext x k) s = .next { s with r := r, flag := 0, err := 0 } ∧ ∀ m < 32, k.toNat < m → byteLe r m = 0xFF) ∧
    (let y : Word := construct 0xdeadbeef 0xdeadbeef 0xdeadbeef 0xdeadbeef 0xdeadbeef 0xdeadbeef 0xdeadbeef 0xdead7f80
     let ones : Limb := 0xFFFFFFFF
     exec (.sext y 1) s = .next { s with r := construct 0 0 0 0 0 0 0 0x00007f80, flag := 0, err := 0 } ∧
     exec (.sext y 0) s = .next { s with
       r := construct ones ones ones ones ones ones ones 0xffffff80, flag := 0, err := 0 } ∧
     exec (.sext y 2) s = .next { s with
       r := construct ones ones ones ones ones ones ones 0xffad7f80, flag := 0, err := 0 } ∧
     exec (.sext y 3) s = .next { s with
       r := construct ones ones ones ones ones ones ones 0xdead7f80, flag := 0, err := 0 })

/-! ### Errors -/

/-- R67: every request with a reserved op code is the error IllegalOp with `err = 1`, whatever `a` and `b` hold. -/
def Obligations.ReservedCodesAreIllegal : Prop :=
  ∀ s : State, 0x12 ≤ s.op.toNat → step s = .fault (.illegalOp s.op) ∧ (Fault.illegalOp s.op).errCode = 1

/-- R220, R223: the errors of the core are complete: a request errs exactly as the error table says, `op` before `b`;
no refusal occurs; and no error has code 0 or 3. -/
def Obligations.ErrorTableIsComplete : Prop :=
  (∀ (s : State) (f : Fault), step s = .fault f ↔
    (∃ op, f = .illegalOp op ∧ s.op = op ∧ 0x12 ≤ op.toNat) ∨
    (∃ b, f = .undefinedBytePosition b ∧ s.b = b ∧ s.op = 0x11 ∧
      b.toNat ∉ [0, 1, 2, 3, 7, 11, 15, 19, 23, 27, 31])) ∧
  (∀ (s : State) (x : Refusal), step s ≠ .refused x) ∧
  (∀ f : Fault, f.errCode = match f with | .illegalOp _ => 1 | .undefinedBytePosition _ => 2)

/-- R221: every other request succeeds: with no entry of the error table on its ports, the step is a valid response. -/
def Obligations.OtherRequestsSucceed : Prop :=
  ∀ s : State, errorOf s.request = none →
    ∃ (v : Word) (f : BitVec 1), step s = .next { s with r := v, flag := f, err := 0 }

/-- R221, by operation: every operation completes, SEXT where its `b` is in S, every other one always. -/
def Obligations.EveryInstrCompletes : Prop :=
  ∀ (i : Instr) (s : State), (∀ a b : Word, i = .sext a b → b.toNat ∈ Config.sextPositions) →
    ∃ (v : Word) (f : BitVec 1), exec i s = .next { s with r := v, flag := f, err := 0 }

/-- R222, R227, as the model carries them (assumptions 4, 11): the host samples the error's code on `err`, and free
values on `r` and `flag`; and nothing of the error reaches a later request: the requests after an erroneous one are
answered as if they had been the first, from whatever port levels. -/
def Obligations.ErroneousResponse : Prop :=
  ∀ (n : Nat) (s : State) (f : Fault), step s = .fault f →
    sample n (step s) = some ⟨f.errCode, Config.freeFlag n, Config.freeResult n⟩ ∧ f.errCode ≠ 0 ∧
    ∀ (s' : State) (later : List (BitVec 517)), issueAll s (s.request :: later) = .fault f :: issueAll s' later

/-! ### The whole machine -/

/-- R29, R26, R11, R220: what an operation leaves unchanged and what it drives: the input ports stay, `err` is 0, and a value
operation's `flag` is 0. -/
def Obligations.FrameOfEveryInstr : Prop :=
  ∀ (i : Instr) (s t : State), exec i s = .next t →
    t.op = s.op ∧ t.a = s.a ∧ t.b = s.b ∧ t.err = 0 ∧ (i.isPredicate = false → t.flag = 0)

/-- R66: a format A operation answers the same for every value of `b`, and no value of `b` raises an error; its
canonical form drives `b = 0`. -/
def Obligations.FormatAIgnoresB : Prop :=
  (∀ (s : State) (a : Word) (op : BitVec 5), (op = 0x00 ∨ op = 0x06 ∨ op = 0x07) →
    ∃ (v : Word) (f : BitVec 1), ∀ b : Word,
      step { s with op := op, a := a, b := b } = .next { op := op, a := a, b := b, r := v, flag := f, err := 0 }) ∧
  (∀ a : Word, encode (.copy a) = requestWord 0x00 a 0 ∧ encode (.not a) = requestWord 0x06 a 0 ∧
    encode (.isZero a) = requestWord 0x07 a 0)

/-- R20, R17: the answer to a request is a function of that request alone, whatever the ports held before. -/
def Obligations.AnswerDependsOnRequestOnly : Prop :=
  ∀ (s s' : State) (req : BitVec 517), present s req = present s' req

/-- R46: for any list of requests, any reordering gives the same answer to each, from any two port levels. `issueAll`
is one core answering one request after the other, and going on after an error from the port levels it had: the model's
own reading (assumptions 10, 11). -/
def Obligations.OrderOfRequestsIsIrrelevant : Prop :=
  ∀ (s s' : State) (reqs reqs' : List (BitVec 517)), List.Perm reqs reqs' →
    List.Perm (reqs.zip (issueAll s reqs)) (reqs'.zip (issueAll s' reqs')) ∧
    (issueAll s reqs).length = reqs.length

/-- The core is combinational (R20, R251): once it has answered, its outputs are already the function of its inputs,
and answering again changes nothing. -/
def Obligations.StepSettles : Prop :=
  ∀ s t : State, step s = .next t → step t = .next t

/-- The invariant of the ports that every step keeps, and establishes even from levels that do not meet it (R26, R61,
R148): after a step no error applies, `err = 0`, a predicate's two forms agree and a value operation's flag is 0. -/
def Obligations.PortsInvKept : Prop :=
  ∀ s t : State, step s = .next t → t.Inv

/-- The invariant holds at `State.reset`, whose input levels are the model's choice (assumptions 2, 3). -/
def Obligations.PortsInvAtReset : Prop := State.reset.Inv

/-- The model's `State.reset` (assumptions 2, 3; R30 gives no value): all ports 0, and the outputs are what the core
answers to those inputs. -/
def Obligations.ResetPortsAreSettled : Prop :=
  State.reset = { op := 0, a := 0, b := 0, r := 0, flag := 0, err := 0 } ∧ step State.reset = .next State.reset

/-! ### The host's request sequences -/

/-- R70: a line whose request errs ends the sequence with the names bound before it, whatever lines follow; the lines
before it are answered and bind their names. A name bound twice means its latest binding (assumption 8). -/
def Obligations.ErrorEndsSequence : Prop :=
  ∀ (s : State) (before rest : List Line) (names names' : Names) (l : Line) (req : BitVec 517) (f : Fault),
    runSequence s names before = .completed names' → l.request names' = some req → errorOf req = some f →
    runSequence s names (before ++ l :: rest) = .erred names' f

/-- R70, R21: a well-formed sequence is answered to its end, each line binding its name to the `r` of its own response,
or ends at a line, after a completed prefix, whose request is a SEXT with its position outside S; it never uses an
unbound name, never spells an illegal op code and is never refused. That the bindings are a list, the latest first, is
the model's choice (assumption 8). -/
def Obligations.WellFormedSequenceRuns : Prop :=
  ∀ (s : State) (names : Names) (ls : List Line), wfSequence (names.map Prod.fst) ls = true →
    (∃ new : Names, runSequence s names ls = .completed (new ++ names) ∧
      new.map Prod.fst = (ls.map Line.name).reverse ∧
      ∀ (before : List Line) (l : Line) (rest : List Line), ls = before ++ l :: rest →
        ∃ (names' : Names) (req : BitVec 517) (t : State),
          runSequence s names before = .completed names' ∧ l.request names' = some req ∧ present s req = .next t ∧
          runSequence s names (before ++ [l]) = .completed ((l.name, t.r) :: names')) ∨
    (∃ (before : List Line) (l : Line) (rest : List Line) (names' : Names) (req : BitVec 517) (b : Word),
      ls = before ++ l :: rest ∧ runSequence s names before = .completed names' ∧ l.request names' = some req ∧
      l.op = 0x11 ∧ b.toNat ∉ Config.sextPositions ∧ errorOf req = some (.undefinedBytePosition b) ∧
      runSequence s names ls = .erred names' (.undefinedBytePosition b))

/-- R25, R227: how a sequence ends does not depend on what the ports held before it. -/
def Obligations.SequenceIgnoresHistory : Prop :=
  ∀ (s s' : State) (names : Names) (ls : List Line), runSequence s names ls = runSequence s' names ls
end

