-- ==== Sys2Proof/Laws/State.lean ====
section
/-! SUPPORT. The small lemmas of the port operations: one per field per update. -/

namespace Sys2Proof.Machine

variable (s : State) (req : BitVec 517) (v : Word) (f : BitVec 1)

@[simp] theorem State.respond_op : (s.respond v f).op = s.op := rfl
@[simp] theorem State.respond_a : (s.respond v f).a = s.a := rfl
@[simp] theorem State.respond_b : (s.respond v f).b = s.b := rfl
@[simp] theorem State.respond_r : (s.respond v f).r = v := rfl
@[simp] theorem State.respond_flag : (s.respond v f).flag = f := rfl
@[simp] theorem State.respond_err : (s.respond v f).err = 0 := rfl

@[simp] theorem State.drive_op : (s.drive req).op = opField req := rfl
@[simp] theorem State.drive_a : (s.drive req).a = aField req := rfl
@[simp] theorem State.drive_b : (s.drive req).b = bField req := rfl
@[simp] theorem State.drive_r : (s.drive req).r = s.r := rfl
@[simp] theorem State.drive_flag : (s.drive req).flag = s.flag := rfl
@[simp] theorem State.drive_err : (s.drive req).err = s.err := rfl

/-- A response leaves the request on the input ports (R29). -/
@[simp] theorem State.respond_request : (s.respond v f).request = s.request := rfl

/-- A second response overwrites the first: nothing of an earlier response is kept (R25). -/
@[simp] theorem State.respond_respond (v' : Word) (f' : BitVec 1) :
    (s.respond v f).respond v' f' = s.respond v' f' := rfl

end Sys2Proof.Machine
end

