-- ==== Sys2Proof/Laws/Encoding.lean ====
section
/-! SUPPORT. The fields of a request word, and the word made of fields. -/

namespace Sys2Proof

@[simp] theorem opField_requestWord (op : BitVec 5) (a b : Word) : opField (requestWord op a b) = op := by
  apply BitVec.eq_of_toNat_eq
  simp only [opField, requestWord, BitVec.extractLsb'_toNat, BitVec.toNat_append]
  have := b.isLt; have := a.isLt; have := op.isLt
  rw [← Nat.shiftLeft_add_eq_or_of_lt b.isLt, ← Nat.shiftLeft_add_eq_or_of_lt a.isLt]
  simp only [Nat.shiftLeft_eq, Nat.shiftRight_eq_div_pow]
  omega

@[simp] theorem aField_requestWord (op : BitVec 5) (a b : Word) : aField (requestWord op a b) = a := by
  apply BitVec.eq_of_toNat_eq
  simp only [aField, requestWord, BitVec.extractLsb'_toNat, BitVec.toNat_append]
  have := b.isLt; have := a.isLt; have := op.isLt
  rw [← Nat.shiftLeft_add_eq_or_of_lt b.isLt, ← Nat.shiftLeft_add_eq_or_of_lt a.isLt]
  simp only [Nat.shiftLeft_eq, Nat.shiftRight_eq_div_pow]
  omega

@[simp] theorem bField_requestWord (op : BitVec 5) (a b : Word) : bField (requestWord op a b) = b := by
  apply BitVec.eq_of_toNat_eq
  simp only [bField, requestWord, BitVec.extractLsb'_toNat, BitVec.toNat_append]
  have := b.isLt; have := a.isLt; have := op.isLt
  rw [← Nat.shiftLeft_add_eq_or_of_lt b.isLt, ← Nat.shiftLeft_add_eq_or_of_lt a.isLt]
  simp only [Nat.shiftLeft_eq, Nat.shiftRight_eq_div_pow]
  omega

/-- A request word is its three fields. -/
@[simp] theorem requestWord_fields (req : BitVec 517) :
    requestWord (opField req) (aField req) (bField req) = req := by
  apply BitVec.eq_of_toNat_eq
  simp only [opField, aField, bField, requestWord, BitVec.toNat_append]
  rw [← Nat.shiftLeft_add_eq_or_of_lt (BitVec.isLt _), ← Nat.shiftLeft_add_eq_or_of_lt (BitVec.isLt _)]
  simp only [BitVec.extractLsb'_toNat, Nat.shiftLeft_eq, Nat.shiftRight_eq_div_pow]
  have := req.isLt
  omega

/-- Decoding a word made of fields is the op code map on those fields. -/
@[simp] theorem decode_requestWord (op : BitVec 5) (a b : Word) :
    decode (requestWord op a b) = decodeFields op a b := by
  simp only [decode, opField_requestWord, aField_requestWord, bField_requestWord]

namespace Machine

/-- What the host drives is the request on the input ports. -/
@[simp] theorem State.drive_request (s : State) (req : BitVec 517) : (s.drive req).request = req :=
  requestWord_fields req

/-- Fetching after driving is decoding what was driven. -/
@[simp] theorem fetch_drive (s : State) (req : BitVec 517) : fetch (s.drive req) = decode req := by
  simp only [fetch, State.drive_request]

end Machine

end Sys2Proof
end

