-- ==== Sys2Proof/Laws/Limbs.lean ====
section
/-! SUPPORT. Limbs and values: a value is its eight limbs, and `fromLimbs` puts limbs where `limb` finds them. -/

namespace Sys2Proof.Machine

/-- A limb as a number. -/
theorem toNat_limb (v : Word) (i : Nat) : (limb v i).toNat = v.toNat / 2 ^ (32 * i) % 2 ^ 32 := by
  simp only [limb, BitVec.extractLsb'_toNat, Nat.shiftRight_eq_div_pow]

/-- A bit of a limb is a bit of the value (R27). -/
theorem getLsbD_limb (v : Word) (i j : Nat) : (limb v i).getLsbD j = (decide (j < 32) && v.getLsbD (32 * i + j)) := by
  simp only [limb, BitVec.getLsbD_extractLsb']

/-- The value formula: the sum of the limbs with their weights (R8). -/
theorem toNat_eq_sum_limbs (v : Word) :
    v.toNat = (limb v 7).toNat * 2 ^ 224 + (limb v 6).toNat * 2 ^ 192 + (limb v 5).toNat * 2 ^ 160
      + (limb v 4).toNat * 2 ^ 128 + (limb v 3).toNat * 2 ^ 96 + (limb v 2).toNat * 2 ^ 64
      + (limb v 1).toNat * 2 ^ 32 + (limb v 0).toNat := by
  simp only [toNat_limb]
  have := v.isLt
  omega

/-- The limbs below n + 1 are the limbs below n and limb n with its weight: the step of every induction over limbs. -/
theorem mod_succ_limb (v : Word) (n : Nat) :
    v.toNat % 2 ^ (32 * (n + 1)) = v.toNat % 2 ^ (32 * n) + (limb v n).toNat * 2 ^ (32 * n) := by
  rw [toNat_limb, show 32 * (n + 1) = 32 * n + 32 by ring, Nat.pow_add, Nat.mod_mul,
    Nat.mul_comm (2 ^ (32 * n)) (_ % _)]

/-- The limbs below 8 are the whole value. -/
theorem mod_all_limbs (v : Word) : v.toNat % 2 ^ (32 * 8) = v.toNat := Nat.mod_eq_of_lt v.isLt

/-- The number `construct` makes never wraps. -/
theorem toNat_construct (w7 w6 w5 w4 w3 w2 w1 w0 : Limb) :
    (construct w7 w6 w5 w4 w3 w2 w1 w0).toNat = w7.toNat * 2 ^ 224 + w6.toNat * 2 ^ 192 + w5.toNat * 2 ^ 160
      + w4.toNat * 2 ^ 128 + w3.toNat * 2 ^ 96 + w2.toNat * 2 ^ 64 + w1.toNat * 2 ^ 32 + w0.toNat := by
  simp only [construct, BitVec.toNat_ofNat]
  have := w7.isLt; have := w6.isLt; have := w5.isLt; have := w4.isLt
  have := w3.isLt; have := w2.isLt; have := w1.isLt; have := w0.isLt
  omega

/-- The number `fromLimbs` makes. -/
theorem toNat_fromLimbs (f : Nat → Limb) :
    (fromLimbs f).toNat = (f 7).toNat * 2 ^ 224 + (f 6).toNat * 2 ^ 192 + (f 5).toNat * 2 ^ 160
      + (f 4).toNat * 2 ^ 128 + (f 3).toNat * 2 ^ 96 + (f 2).toNat * 2 ^ 64 + (f 1).toNat * 2 ^ 32 + (f 0).toNat :=
  toNat_construct ..

/-- Limb i of `fromLimbs f` is `f i`. -/
theorem limb_fromLimbs (f : Nat → Limb) (i : Nat) (hi : i < 8) : limb (fromLimbs f) i = f i := by
  apply BitVec.eq_of_toNat_eq
  rw [toNat_limb, toNat_fromLimbs]
  have := (f 7).isLt; have := (f 6).isLt; have := (f 5).isLt; have := (f 4).isLt
  have := (f 3).isLt; have := (f 2).isLt; have := (f 1).isLt; have := (f 0).isLt
  interval_cases i <;> omega

/-- Two values with the same eight limbs are the same value (R28). -/
theorem eq_of_limbs_eq {v w : Word} (h : ∀ i < 8, limb v i = limb w i) : v = w := by
  apply BitVec.eq_of_toNat_eq
  rw [toNat_eq_sum_limbs v, toNat_eq_sum_limbs w, h 0 (by decide), h 1 (by decide), h 2 (by decide), h 3 (by decide),
    h 4 (by decide), h 5 (by decide), h 6 (by decide), h 7 (by decide)]

/-- To be `fromLimbs f` is to have the limbs `f i`. -/
theorem fromLimbs_eq_of_limbs {f : Nat → Limb} {v : Word} (h : ∀ i < 8, f i = limb v i) : fromLimbs f = v :=
  eq_of_limbs_eq fun i hi => (limb_fromLimbs f i hi).trans (h i hi)

/-- `zext_256` of one bit is the number 0 or 1. -/
theorem zextBit_eq (p : Bool) : zextBit p = BitVec.ofNat 256 p.toNat := by
  cases p <;> rfl

/-- The sign bit is bit 255 (R10). -/
theorem signBit_eq (v : Word) : signBit v = v.getLsbD 255 := by
  simp only [signBit, getLsbD_limb]
  rfl

end Sys2Proof.Machine
end

