-- ==== Sys2Proof/Laws/Ops.lean ====
section
/-! SUPPORT. What an answer can be: one lemma per shared operation, and the inversion of `exec` and `step`. -/

namespace Sys2Proof.Machine

/-- A value answer drives its value, flag 0 and error 0, and nothing else. -/
theorem answerValue_eq (v : Word) (s : State) :
    answerValue v s = .next { s with r := v, flag := 0, err := 0 } := rfl

/-- A predicate answer drives the truth value in both forms and error 0, and nothing else (R148). -/
theorem answerPredicate_eq (p : Bool) (s : State) :
    answerPredicate p s = .next { s with r := BitVec.ofNat 256 p.toNat, flag := BitVec.ofNat 1 p.toNat, err := 0 } := by
  cases p <;> rfl

/-- The two shapes of a meaning's answer that are a next state. -/
theorem answerValue_next {v : Word} {s t : State} (h : answerValue v s = .next t) : t = s.respond v 0 :=
  (Host.Outcome.next.inj h).symm

theorem answerPredicate_next {p : Bool} {s t : State} (h : answerPredicate p s = .next t) :
    t = s.respond (zextBit p) (BitVec.ofBool p) :=
  (Host.Outcome.next.inj h).symm

/-- Taking an error is never a next state. -/
theorem raise_ne_next (f : Fault) (t : State) : raise f ≠ .next t := by
  intro h; cases h

/-- SEXT in S answers a value, and outside S it raises its error. -/
theorem execSext_of_mem {a b : Word} (h : isSextPosition b = true) (s : State) :
    execSext a b s = answerValue (sextFrom a (8 * b.toNat + 7)) s := if_pos h

theorem execSext_of_not_mem {a b : Word} (h : isSextPosition b = false) (s : State) :
    execSext a b s = raise (.undefinedBytePosition b) := by
  simp only [execSext, h, Bool.false_eq_true, if_false]

/-- Membership in S, as a number. -/
theorem isSextPosition_iff (b : Word) : isSextPosition b = true ↔ b.toNat ∈ Config.sextPositions := by
  simp only [isSextPosition, List.contains_iff_mem]

/-- Everything `exec` can do: drive a value, drive a predicate's two forms, or raise SEXT's one error. -/
theorem exec_cases (i : Instr) (s : State) :
    (i.isPredicate = false ∧ ∃ v, ∀ s', exec i s' = answerValue v s') ∨
    (i.isPredicate = true ∧ ∃ p, ∀ s', exec i s' = answerPredicate p s') ∨
    (∃ a b, i = .sext a b ∧ isSextPosition b = false ∧ exec i s = raise (.undefinedBytePosition b)) := by
  cases i with
  | sext a b =>
    cases h : isSextPosition b with
    | true => exact .inl ⟨rfl, _, fun s' => execSext_of_mem h s'⟩
    | false => exact .inr (.inr ⟨a, b, rfl, h, execSext_of_not_mem h s⟩)
  | copy | add | sub | and | or | xor | not | byte => exact .inl ⟨rfl, _, fun _ => rfl⟩
  | isZero | eq | ne | ult | ugt | ule | uge | slt | sgt => exact .inr (.inl ⟨rfl, _, fun _ => rfl⟩)

/-- Everything `step` can do: `exec` of the operation on the input ports, or the error of a reserved op code. -/
theorem step_cases (s : State) :
    (∃ i, fetch s = .ok i ∧ step s = exec i s) ∨
    (∃ op, fetch s = .error (.illegalOp op) ∧ step s = raise (.illegalOp op)) := by
  cases h : fetch s with
  | ok i => exact .inl ⟨i, rfl, by simp only [step, h]⟩
  | error e =>
    cases e with
    | illegalOp op => exact .inr ⟨op, rfl, by simp only [step, h, rejectRequest]⟩

end Sys2Proof.Machine
end

