-- ==== Sys2Proof/Laws/PerInstr.lean ====
section
/-! SUPPORT. A statement per operation about its encoding: the request word is well formed and carries the op code and
the operands in their fields. -/

namespace Sys2Proof.Laws.RequestFields

/-- The request word of `i` spells an operation, and its three fields are `i`'s op code and operands (R60, R64). -/
def Statement (i : Instr) : Prop :=
  i.wf = true ∧ opField (encode i) = i.opCode ∧ aField (encode i) = i.operandA ∧ bField (encode i) = i.operandB

/-- The fields of any encoded operation; what is left is that its op code is assigned. -/
theorem of_assigned (i : Instr) (h : opAssigned i.opCode = true) : Statement i :=
  ⟨by simpa only [Instr.wf, wellFormedRequest, encode, opField_requestWord] using h,
   opField_requestWord .., aField_requestWord .., bField_requestWord ..⟩

theorem copy (a : Word) : Statement (.copy a) := of_assigned _ rfl
theorem add (a b : Word) : Statement (.add a b) := of_assigned _ rfl
theorem sub (a b : Word) : Statement (.sub a b) := of_assigned _ rfl
theorem and (a b : Word) : Statement (.and a b) := of_assigned _ rfl
theorem or (a b : Word) : Statement (.or a b) := of_assigned _ rfl
theorem xor (a b : Word) : Statement (.xor a b) := of_assigned _ rfl
theorem not (a : Word) : Statement (.not a) := of_assigned _ rfl
theorem isZero (a : Word) : Statement (.isZero a) := of_assigned _ rfl
theorem eq (a b : Word) : Statement (.eq a b) := of_assigned _ rfl
theorem ne (a b : Word) : Statement (.ne a b) := of_assigned _ rfl
theorem ult (a b : Word) : Statement (.ult a b) := of_assigned _ rfl
theorem ugt (a b : Word) : Statement (.ugt a b) := of_assigned _ rfl
theorem ule (a b : Word) : Statement (.ule a b) := of_assigned _ rfl
theorem uge (a b : Word) : Statement (.uge a b) := of_assigned _ rfl
theorem slt (a b : Word) : Statement (.slt a b) := of_assigned _ rfl
theorem sgt (a b : Word) : Statement (.sgt a b) := of_assigned _ rfl
theorem byte (a b : Word) : Statement (.byte a b) := of_assigned _ rfl
theorem sext (a b : Word) : Statement (.sext a b) := of_assigned _ rfl

end Sys2Proof.Laws.RequestFields
end

