-- ==== Sys2Proof/Laws/Sequence.lean ====
section
/-! SUPPORT. What the host's request sequences can do: one line at a time, and a sequence cut in two. -/

namespace Sys2Proof.Machine

/-- Everything `runSequence` can do at its first line (R70). -/
theorem runSequence_cons_cases (s : State) (names : Names) (l : Line) (rest : List Line) :
    (l.request names = none ∧ runSequence s names (l :: rest) = .unbound names l) ∨
    (∃ req, l.request names = some req ∧
      ((∃ t, present s req = .next t ∧
          runSequence s names (l :: rest) = runSequence t ((l.name, t.r) :: names) rest) ∨
       (∃ f, present s req = .fault f ∧ runSequence s names (l :: rest) = .erred names f) ∨
       (∃ x, present s req = .refused x ∧ runSequence s names (l :: rest) = .refused names x))) := by
  cases hl : l.request names with
  | none => exact .inl ⟨rfl, by simp only [runSequence, hl]⟩
  | some req =>
    refine .inr ⟨req, rfl, ?_⟩
    cases hp : present s req with
    | next t => exact .inl ⟨t, rfl, by simp only [runSequence, hl, hp]⟩
    | fault f => exact .inr (.inl ⟨f, rfl, by simp only [runSequence, hl, hp]⟩)
    | refused x => exact .inr (.inr ⟨x, rfl, by simp only [runSequence, hl, hp]⟩)

/-- After a completed prefix a sequence goes on with the lines that follow and the names the prefix bound. -/
theorem runSequence_append {s : State} {names names' : Names} {before : List Line}
    (h : runSequence s names before = .completed names') (rest : List Line) :
    ∃ t, runSequence s names (before ++ rest) = runSequence t names' rest := by
  induction before generalizing s names with
  | nil => cases h; exact ⟨s, rfl⟩
  | cons l ls ih =>
    rcases runSequence_cons_cases s names l ls with ⟨_, e⟩ | ⟨req, hl, ⟨t, hp, e⟩ | ⟨f, _, e⟩ | ⟨x, _, e⟩⟩
    · rw [e] at h; cases h
    · rw [e] at h
      obtain ⟨u, hu⟩ := ih h
      exact ⟨u, by simpa only [List.cons_append, runSequence, hl, hp] using hu⟩
    · rw [e] at h; cases h
    · rw [e] at h; cases h

/-- A bound name has a value. -/
theorem Names.lookup_of_contains {names : Names} {n : Nat} (h : (names.map Prod.fst).contains n = true) :
    ∃ v, names.lookup n = some v := by
  induction names with
  | nil => simp at h
  | cons p ps ih =>
    obtain ⟨k, v⟩ := p
    by_cases hk : n = k
    · exact ⟨v, by simp [hk]⟩
    · have hn : (n == k) = false := by simpa using hk
      rw [List.lookup_cons, hn]
      exact ih (by simpa only [List.map_cons, List.contains_cons, hn, Bool.false_or] using h)

/-- A well-formed operand has a value. -/
theorem Operand.value_of_wf {names : Names} {o : Operand} (h : o.wf (names.map Prod.fst) = true) :
    ∃ v, o.value names = some v := by
  cases o with
  | literal l => exact ⟨l.value, rfl⟩
  | bound n => exact Names.lookup_of_contains h

/-- A well-formed line issues a request with its op code, which is assigned (R64, R70). -/
theorem Line.request_of_wf {names : Names} {l : Line} (h : l.wf (names.map Prod.fst) = true) :
    ∃ a b, l.request names = some (requestWord l.op a b) ∧ opAssigned l.op = true := by
  simp only [Line.wf, Bool.and_eq_true] at h
  obtain ⟨a, ha⟩ := Operand.value_of_wf h.1.1.2
  obtain ⟨b, hb⟩ := Operand.value_of_wf h.1.2
  exact ⟨a, b, by simp only [Line.request, ha, hb], h.1.1.1⟩

end Sys2Proof.Machine
end

