-- ==== Sys2Proof/Tests/Slice0.lean ====
section
/-! SUPPORT. The model's own tests: written-out request words, vectors of 95_test_vectors.md, ill-formed terms, and a
witness for the hypotheses of every statement. -/

-- One theorem after another: many kernel evaluations at once exhaust the threads a small machine allows.
set_option Elab.async false

namespace Sys2Proof.Tests

open Sys2Proof Sys2Proof.Machine

/-- The valid response of an answer: `r`, `flag`, `err`. -/
def answerOf : Result → Option (Word × Nat × Nat)
  | .next t => some (t.r, t.flag.toNat, t.err.toNat)
  | _ => none

/-- The error of an answer. -/
def faultOf : Result → Option Fault
  | .fault f => some f
  | _ => none

/-- One request, presented at reset. -/
def ask (op : BitVec 5) (a b : Word) : Result := present State.reset (requestWord op a b)

/-- The operand x of 95_test_vectors.md section 2, every byte distinct. -/
def x : Word := 0x0123456789abcdeffedcba98765432100f1e2d3c4b5a69788796a5b4c3d2e1f0

/-- The operand y of 95_test_vectors.md section 2. -/
def y : Word := 0xdeadbeefdeadbeefdeadbeefdeadbeefdeadbeefdeadbeefdeadbeefdead7f80

/-! ### Decoding: one request word per operation, written out from R60 and R64 as 2 hexadecimal digits for `op`, 64 for
`a`, 64 for `b`; those marked are request words of 95_test_vectors.md section 3. -/

/-- COPY. -/
theorem test_word_copy : decode
    0x000123456789abcdeffedcba98765432100f1e2d3c4b5a69788796a5b4c3d2e1f0ffffffffffffffffffffffffffffffffffffffffffffffffffffffffffffffff#517
    = .ok (.copy 0x123456789abcdeffedcba98765432100f1e2d3c4b5a69788796a5b4c3d2e1f0) := by decide +kernel

/-- ADD (95_test_vectors.md section 3). -/
theorem test_word_add : decode
    0x0100000000000000000000000000000000000000000000000000000001000000060000000000000000000000000000000000000000000000000000000000000001#517
    = .ok (.add 0x100000006 1) := by decide +kernel

/-- SUB (95_test_vectors.md section 3). -/
theorem test_word_sub : decode
    0x0200000000000000000000000000000000000000000000000000000000000000000000000000000000000000000000000000000000000000000000000000000001#517
    = .ok (.sub 0 1) := by decide +kernel

/-- AND. -/
theorem test_word_and : decode
    0x030123456789abcdeffedcba98765432100f1e2d3c4b5a69788796a5b4c3d2e1f00000000000000000000000000000000000000000000000000000000000001237#517
    = .ok (.and 0x123456789abcdeffedcba98765432100f1e2d3c4b5a69788796a5b4c3d2e1f0 0x1237) := by decide +kernel

/-- OR. -/
theorem test_word_or : decode
    0x040123456789abcdeffedcba98765432100f1e2d3c4b5a69788796a5b4c3d2e1f00000000000000000000000000000000000000000000000000000000000001238#517
    = .ok (.or 0x123456789abcdeffedcba98765432100f1e2d3c4b5a69788796a5b4c3d2e1f0 0x1238) := by decide +kernel

/-- XOR (95_test_vectors.md section 3). -/
theorem test_word_xor : decode
    0x05fffffffffffffffffffffffffffffffffffffffffffffffffffffffffffffffdffffffffffffffffffffffffffffffffffffffffffffffffffffffffffffffff#517
    = .ok (.xor 0xfffffffffffffffffffffffffffffffffffffffffffffffffffffffffffffffd 0xffffffffffffffffffffffffffffffffffffffffffffffffffffffffffffffff) := by decide +kernel

/-- NOT (95_test_vectors.md section 3). -/
theorem test_word_not : decode
    0x0600000000000000000000000000000000000000000000000000000000000000050000000000000000000000000000000000000000000000000000000000000000#517
    = .ok (.not 5) := by decide +kernel

/-- ISZERO. -/
theorem test_word_isZero : decode
    0x070123456789abcdeffedcba98765432100f1e2d3c4b5a69788796a5b4c3d2e1f0000000000000000000000000000000000000000000000000000000000000123b#517
    = .ok (.isZero 0x123456789abcdeffedcba98765432100f1e2d3c4b5a69788796a5b4c3d2e1f0) := by decide +kernel

/-- EQ. -/
theorem test_word_eq : decode
    0x080123456789abcdeffedcba98765432100f1e2d3c4b5a69788796a5b4c3d2e1f0000000000000000000000000000000000000000000000000000000000000123c#517
    = .ok (.eq 0x123456789abcdeffedcba98765432100f1e2d3c4b5a69788796a5b4c3d2e1f0 0x123c) := by decide +kernel

/-- NE. -/
theorem test_word_ne : decode
    0x090123456789abcdeffedcba98765432100f1e2d3c4b5a69788796a5b4c3d2e1f0000000000000000000000000000000000000000000000000000000000000123d#517
    = .ok (.ne 0x123456789abcdeffedcba98765432100f1e2d3c4b5a69788796a5b4c3d2e1f0 0x123d) := by decide +kernel

/-- ULT (95_test_vectors.md section 3). -/
theorem test_word_ult : decode
    0x0a0000000000000000000000000000000000000000000000000000000000000003fffffffffffffffffffffffffffffffffffffffffffffffffffffffffffffffe#517
    = .ok (.ult 3 0xfffffffffffffffffffffffffffffffffffffffffffffffffffffffffffffffe) := by decide +kernel

/-- UGT (95_test_vectors.md section 3). -/
theorem test_word_ugt : decode
    0x0bfffffffffffffffffffffffffffffffffffffffffffffffffffffffffffffffd0000000000000000000000000000000000000000000000000000000000000002#517
    = .ok (.ugt 0xfffffffffffffffffffffffffffffffffffffffffffffffffffffffffffffffd 2) := by decide +kernel

/-- ULE. -/
theorem test_word_ule : decode
    0x0c0123456789abcdeffedcba98765432100f1e2d3c4b5a69788796a5b4c3d2e1f00000000000000000000000000000000000000000000000000000000000001240#517
    = .ok (.ule 0x123456789abcdeffedcba98765432100f1e2d3c4b5a69788796a5b4c3d2e1f0 0x1240) := by decide +kernel

/-- UGE. -/
theorem test_word_uge : decode
    0x0d0123456789abcdeffedcba98765432100f1e2d3c4b5a69788796a5b4c3d2e1f00000000000000000000000000000000000000000000000000000000000001241#517
    = .ok (.uge 0x123456789abcdeffedcba98765432100f1e2d3c4b5a69788796a5b4c3d2e1f0 0x1241) := by decide +kernel

/-- SLT (95_test_vectors.md section 3). -/
theorem test_word_slt : decode
    0x0efffffffffffffffffffffffffffffffffffffffffffffffffffffffffffffffd0000000000000000000000000000000000000000000000000000000000000002#517
    = .ok (.slt 0xfffffffffffffffffffffffffffffffffffffffffffffffffffffffffffffffd 2) := by decide +kernel

/-- SGT. -/
theorem test_word_sgt : decode
    0x0f0123456789abcdeffedcba98765432100f1e2d3c4b5a69788796a5b4c3d2e1f00000000000000000000000000000000000000000000000000000000000001243#517
    = .ok (.sgt 0x123456789abcdeffedcba98765432100f1e2d3c4b5a69788796a5b4c3d2e1f0 0x1243) := by decide +kernel

/-- BYTE (95_test_vectors.md section 3). -/
theorem test_word_byte : decode
    0x100123456789abcdeffedcba98765432100f1e2d3c4b5a69788796a5b4c3d2e1f0000000000000000000000000000000000000000000000000000000000000001f#517
    = .ok (.byte 0x123456789abcdeffedcba98765432100f1e2d3c4b5a69788796a5b4c3d2e1f0 0x1f) := by decide +kernel

/-- SEXT (95_test_vectors.md section 3). -/
theorem test_word_sext : decode
    0x110123456789abcdeffedcba98765432100f1e2d3c4b5a69788796a5b4c3d2e1f00000000000000000000000000000000000000000000000000000000000000004#517
    = .ok (.sext 0x123456789abcdeffedcba98765432100f1e2d3c4b5a69788796a5b4c3d2e1f0 4) := by decide +kernel

/-- Op code 0x1F is reserved (R67). -/
theorem test_word_reserved : decode
    0x1f0123456789abcdeffedcba98765432100f1e2d3c4b5a69788796a5b4c3d2e1f00000000000000000000000000000000000000000000000000000000000000003#517
    = .error (.illegalOp 0x1F) := by decide +kernel

/-- The table's word for SEXT, with operand words of zeros. -/
theorem test_table_word : decodeTableWord 8 0x11 = some (.sext 0 0) := by decide

/-- The table has no row 0x12. -/
theorem test_table_word_reserved : decodeTableWord 8 0x12 = none := by decide

/-- The table's word is the request the next step answers: `ISZERO 0` gives 1. -/
theorem test_fetch_word : answerOf (step (State.reset.withFetchWord 8 0x07)) = some (1, 1, 0) := by decide

/-! ### Vectors of 95_test_vectors.md section 2, one step each -/

/-- V-COPY-1. -/
theorem test_vector_copy_1 : answerOf (ask 0x00 x 0)
    = some (x, 0, 0) := by decide +kernel

/-- V-COPY-4: b ignored. -/
theorem test_vector_copy_4 : answerOf (ask 0x00 x 0xffffffffffffffffffffffffffffffffffffffffffffffffffffffffffffffff)
    = some (x, 0, 0) := by decide +kernel

/-- V-ADD-6: carry into ffffffff + ffffffff; single-test design gives limb 2 = 0 (conflict C1). -/
theorem test_vector_add_6 : answerOf (ask 0x01 0xffffffffffffffff 0xffffffff00000001)
    = some (0x1ffffffff00000000, 0, 0) := by decide +kernel

/-- V-ADD-7: general. -/
theorem test_vector_add_7 : answerOf (ask 0x01 x y)
    = some (0xdfd1045768598cdfdd8a79885501f0ffedcbec2c2a082868664464a4a2806170, 0, 0) := by decide +kernel

/-- V-SUB-6: borrow into a subtrahend limb of ffffffff; single-test design gives limb 2 = 1 (conflict C1). -/
theorem test_vector_sub_6 : answerOf (ask 0x02 0x10000000500000000 0xffffffff00000001)
    = some (0x5ffffffff, 0, 0) := by decide +kernel

/-- V-SUB-7: general. -/
theorem test_vector_sub_7 : answerOf (ask 0x02 x y)
    = some (0x22758677aafe0f00202efba897a6732030706e4c6cacaa88a8e8e6c4e5256270, 0, 0) := by decide +kernel

/-- V-AND-1. -/
theorem test_vector_and_1 : answerOf (ask 0x03 0xffff0000ffff0000ffff0000ffff00000000ffff0000ffff0000ffff0000ffff 0x1234567812345678123456781234567812345678123456781234567812345678)
    = some (0x1234000012340000123400001234000000005678000056780000567800005678, 0, 0) := by decide +kernel

/-- V-AND-4. -/
theorem test_vector_and_4 : answerOf (ask 0x03 x y)
    = some (0x21046788a98cefde8cba88560432000e0c2c2c4a0828688684a4a4c2806180, 0, 0) := by decide +kernel

/-- V-OR-1. -/
theorem test_vector_or_1 : answerOf (ask 0x04 0xffff0000ffff0000ffff0000ffff00000000ffff0000ffff0000ffff0000ffff 0x1234567812345678123456781234567812345678123456781234567812345678)
    = some (0xffff5678ffff5678ffff5678ffff56781234ffff1234ffff1234ffff1234ffff, 0, 0) := by decide +kernel

/-- V-OR-4. -/
theorem test_vector_or_4 : answerOf (ask 0x04 x y)
    = some (0xdfafffefdfafffeffefdbefffefdbeffdfbfbfffdfffffffdfbfbfffdffffff0, 0, 0) := by decide +kernel

/-- V-XOR-1. -/
theorem test_vector_xor_1 : answerOf (ask 0x05 0xffff0000ffff0000ffff0000ffff00000000ffff0000ffff0000ffff0000ffff 0x1234567812345678123456781234567812345678123456781234567812345678)
    = some (0xedcb5678edcb5678edcb5678edcb56781234a9871234a9871234a9871234a987, 0, 0) := by decide +kernel

/-- V-XOR-4. -/
theorem test_vector_xor_4 : answerOf (ask 0x05 x y)
    = some (0xdf8efb885706730020710477a8f98cffd1b393d395f7d797593b1b5b1d7f9e70, 0, 0) := by decide +kernel

/-- V-NOT-2. -/
theorem test_vector_not_2 : answerOf (ask 0x06 x 0)
    = some (0xfedcba98765432100123456789abcdeff0e1d2c3b4a5968778695a4b3c2d1e0f, 0, 0) := by decide +kernel

/-- V-NOT-4: b ignored. -/
theorem test_vector_not_4 : answerOf (ask 0x06 0xffffffffffffffffffffffffffffffffffffffffffffffffffffffffffffffff x)
    = some (0, 0, 0) := by decide +kernel

/-- V-ISZERO-4: only limb 4 set. -/
theorem test_vector_iszero_4 : answerOf (ask 0x07 0x100000000000000000000000000000000 0)
    = some (0, 0, 0) := by decide +kernel

/-- V-ISZERO-5: b ignored. -/
theorem test_vector_iszero_5 : answerOf (ask 0x07 0 0xffffffffffffffffffffffffffffffffffffffffffffffffffffffffffffffff)
    = some (1, 1, 0) := by decide +kernel

/-- V-EQ-1. -/
theorem test_vector_eq_1 : answerOf (ask 0x08 x x)
    = some (1, 1, 0) := by decide +kernel

/-- V-EQ-3: differ in bit 255 only. -/
theorem test_vector_eq_3 : answerOf (ask 0x08 x 0x8123456789abcdeffedcba98765432100f1e2d3c4b5a69788796a5b4c3d2e1f0)
    = some (0, 0, 0) := by decide +kernel

/-- V-NE-1. -/
theorem test_vector_ne_1 : answerOf (ask 0x09 5 0xa)
    = some (1, 1, 0) := by decide +kernel

/-- V-NE-2. -/
theorem test_vector_ne_2 : answerOf (ask 0x09 x x)
    = some (0, 0, 0) := by decide +kernel

/-- V-ULT-4: bit 255 set is large, not negative. -/
theorem test_vector_ult_4 : answerOf (ask 0x0A 0xffffffff00000000000000000000000000000000000000000000000000000000 1)
    = some (0, 0, 0) := by decide +kernel

/-- V-ULT-5: high limb decides: 2^32 vs 2^32-1. -/
theorem test_vector_ult_5 : answerOf (ask 0x0A 0x100000000 0xffffffff)
    = some (0, 0, 0) := by decide +kernel

/-- V-UGT-3. -/
theorem test_vector_ugt_3 : answerOf (ask 0x0B 5 5)
    = some (0, 0, 0) := by decide +kernel

/-- V-UGT-4. -/
theorem test_vector_ugt_4 : answerOf (ask 0x0B 0xffffffff00000000000000000000000000000000000000000000000000000000 1)
    = some (1, 1, 0) := by decide +kernel

/-- V-ULE-1. -/
theorem test_vector_ule_1 : answerOf (ask 0x0C 5 5)
    = some (1, 1, 0) := by decide +kernel

/-- V-ULE-2. -/
theorem test_vector_ule_2 : answerOf (ask 0x0C 0xa 5)
    = some (0, 0, 0) := by decide +kernel

/-- V-UGE-1. -/
theorem test_vector_uge_1 : answerOf (ask 0x0D 5 5)
    = some (1, 1, 0) := by decide +kernel

/-- V-UGE-4. -/
theorem test_vector_uge_4 : answerOf (ask 0x0D x y)
    = some (0, 0, 0) := by decide +kernel

/-- V-SLT-1: document example: negative < positive. -/
theorem test_vector_slt_1 : answerOf (ask 0x0E 0xffffffff00000000000000000000000000000000000000000000000000000000 1)
    = some (1, 1, 0) := by decide +kernel

/-- V-SLT-12: bit 31 of limb 6 is not a sign. -/
theorem test_vector_slt_12 : answerOf (ask 0x0E 0x80000000000000000000000000000000000000000000000000000000 1)
    = some (0, 0, 0) := by decide +kernel

/-- V-SGT-3: -1 > -2. -/
theorem test_vector_sgt_3 : answerOf (ask 0x0F 0xffffffffffffffffffffffffffffffffffffffffffffffffffffffffffffffff 0xfffffffffffffffffffffffffffffffffffffffffffffffffffffffffffffffe)
    = some (1, 1, 0) := by decide +kernel

/-- V-SGT-9. -/
theorem test_vector_sgt_9 : answerOf (ask 0x0F x y)
    = some (1, 1, 0) := by decide +kernel

/-- V-BYTE-6: first byte of limb 6. -/
theorem test_vector_byte_6 : answerOf (ask 0x10 x 4)
    = some (0x89, 0, 0) := by decide +kernel

/-- V-BYTE-20: b = 2^32: whole operand tested. -/
theorem test_vector_byte_20 : answerOf (ask 0x10 x 0x100000000)
    = some (0, 0, 0) := by decide +kernel

/-- V-SEXT-15. -/
theorem test_vector_sext_15 : answerOf (ask 0x11 y 2)
    = some (0xffffffffffffffffffffffffffffffffffffffffffffffffffffffffffad7f80, 0, 0) := by decide +kernel

/-- V-SEXT-30: b = 2^32 + 3: whole operand tested. -/
theorem test_vector_sext_30 : faultOf (ask 0x11 x 0x100000003)
    = some (.undefinedBytePosition 0x100000003) := by decide +kernel

/-- V-ILL-1: reserved code. -/
theorem test_vector_ill_1 : faultOf (ask 0x12 x 3)
    = some (.illegalOp 0x12) := by decide +kernel

/-- V-ILL-3: reserved code. -/
theorem test_vector_ill_3 : faultOf (ask 0x1F x 3)
    = some (.illegalOp 0x1F) := by decide +kernel

/-! ### The textual form (R7, R215) and a line of a sequence (R70) -/

/-- R7: 2^32 as the document prints it. -/
theorem test_word_text : String.ofList (wordText (BitVec.ofNat 256 (2 ^ 32)))
    = "00000000 00000000 00000000 00000000 00000000 00000000 00000001 00000000" := by decide +kernel

/-- Program 4 of 95_test_vectors.md, its first line: `p = ADD 3, 1` binds p to the `r` of its response. -/
theorem test_sequence_binds : runSequence State.reset [(0, x)] [⟨1, 0x01, .literal (.number 3), .literal (.number 1)⟩]
    = .completed [(1, 4), (0, x)] := by decide +kernel

/-- Program 4 of 95_test_vectors.md, its second line: p = 4 is bound, `SEXT v, p` errs and ends the sequence. -/
theorem test_sequence_error : runSequence State.reset [(1, 4), (0, x)]
    [⟨2, 0x11, .bound 0, .bound 1⟩, ⟨3, 0x00, .bound 2, .literal (.number 0)⟩]
    = .erred [(1, 4), (0, x)] (.undefinedBytePosition 4) := by decide +kernel

/-! ### Ill-formed terms that the checks refuse -/

theorem test_wf_request_reserved : wellFormedRequest (requestWord 0x12 0 0) = false := by decide
theorem test_wf_request_last : wellFormedRequest (requestWord 0x11 0 0) = true := by decide
theorem test_wf_instr : (Instr.sext 5 (BitVec.allOnes 256)).wf = true := by decide +kernel
theorem test_wf_literal_too_large : (Literal.number (2 ^ 256)).wf = false := by decide +kernel
theorem test_wf_operand_unbound : (Operand.bound 1).wf [0] = false := by decide
theorem test_wf_line_reserved : (Line.mk 1 0x12 (.bound 0) (.bound 0)).wf [0] = false := by decide
theorem test_wf_line_formatA : (Line.mk 1 0x06 (.bound 0) (.bound 0)).wf [0] = false := by decide
theorem test_wf_sequence_later_name : wfSequence [0] [⟨1, 0x01, .bound 0, .bound 2⟩, ⟨2, 0x00, .bound 0, .literal (.number 0)⟩]
    = false := by decide
theorem test_wf_sequence : wfSequence [0] [⟨1, 0x06, .bound 0, .literal (.number 0)⟩, ⟨2, 0x01, .bound 1, .literal (.number 1)⟩]
    = true := by decide

/-! ### Witnesses: concrete operands and states that meet the hypotheses of each statement, at its boundaries -/

theorem test_hyp_BytesLieInLimbs : (31 : Nat) < 32 := by decide
theorem test_hyp_RequestWordLayout : (7 : Nat) < 8 := by decide
theorem test_hyp_OpCodeMap_reserved : 0x12 ≤ (0x12 : BitVec 5).toNat := by decide
theorem test_hyp_DecodingIsTotal_assigned : ((requestWord 0x11 x y).extractLsb' 512 5).toNat ≤ 0x11 := by decide
theorem test_hyp_DecodingIsTotal_reserved : ¬((requestWord 0x12 x y).extractLsb' 512 5).toNat ≤ 0x11 := by decide
theorem test_hyp_DecodingIsTotal_readsB : (Instr.sext x y).readsB = true := by decide
theorem test_hyp_EncodeOfDecode : decode (requestWord 0x06 x y) = .ok (.not x) := by decide
theorem test_hyp_StepRunsDecodedInstr : decode (State.reset.drive (requestWord 0x10 x 3)).request = .ok (.byte x 3) := by
  decide
theorem test_hyp_BitwiseNoCrossLimb_limb : limb x 7 = limb (x ^^^ 1) 7 ∧ limb y 7 = limb y 7 := by decide
theorem test_hyp_BitwiseNoCrossLimb_bit : x.getLsbD 255 = (x ^^^ 1).getLsbD 255 ∧ y.getLsbD 255 = y.getLsbD 255 := by decide
theorem test_hyp_BitwiseNoCrossLimb_instr : (Instr.xor = .and ∨ Instr.xor = .or ∨ Instr.xor = .xor) := .inr (.inr rfl)
theorem test_hyp_PredicateResultForm : (Instr.isZero x).isPredicate = true := by decide
theorem test_hyp_LimbScan_differ : limb x 0 ≠ limb (x ^^^ 1) 0 ∧ ∀ j < 8, 0 < j → limb x j = limb (x ^^^ 1) j := by decide
theorem test_hyp_LimbScan_top : limb x 7 ≠ limb y 7 ∧ ∀ j < 8, 7 < j → limb x j = limb y j := by decide
theorem test_hyp_LimbScan_equal : ∀ i < 8, limb x i = limb x i := by decide
theorem test_hyp_SignedScan_less : y.getLsbD 255 = true ∧ x.getLsbD 255 = false := by decide
theorem test_hyp_SignedScan_agree : y.getLsbD 255 = (BitVec.allOnes 256).getLsbD 255 := by decide
theorem test_hyp_ByteResults : (31 : Word).toNat < 32 := by decide
theorem test_hyp_ByteSelectionTable : (7 : Nat) < 8 ∧ (3 : Nat) < 4 := by decide
theorem test_hyp_ByteIndexOutOfRange : 32 ≤ (32 : Word).toNat := by decide
theorem test_hyp_ByteIndexOutOfRange_wide : 32 ≤ (BitVec.ofNat 256 (2 ^ 32)).toNat := by decide
theorem test_hyp_ByteAndSextCountOppositely : (31 : Nat) < 32 ∧ 31 ∈ Config.sextPositions := by decide
theorem test_hyp_ByteAndSextCountOppositely_fill : (0 : Nat) < 32 ∧ 0 ∈ Config.sextPositions ∧ (31 : Nat) < 32 ∧ 0 < 31 := by
  decide
theorem test_hyp_SextResults_inside : (31 : Word).toNat ∈ [0, 1, 2, 3, 7, 11, 15, 19, 23, 27, 31] := by decide
theorem test_hyp_SextResults_outside : (30 : Word).toNat ∉ [0, 1, 2, 3, 7, 11, 15, 19, 23, 27, 31] := by decide
theorem test_hyp_SextByteByByte : (3 : Word).toNat ∈ Config.sextPositions ∧
    ∀ m ≤ (3 : Word).toNat, byteLe (x ^^^ BitVec.ofNat 256 (2 ^ 32)) m = byteLe x m := by decide
theorem test_hyp_SextAtLimbEnds : (0 : Nat) < 8 ∧ (0 : Nat) ≤ 0 ∧ (7 : Nat) < 8 ∧ (0 : Nat) < 7 := by decide
theorem test_hyp_SextAtLimbEnds_top : (7 : Nat) < 8 ∧ (7 : Nat) = 7 := by decide
theorem test_hyp_SextInsideLimbZero : (2 : Nat) < 3 ∧ (7 : Nat) < 8 ∧ (1 : Nat) ≤ 7 := by decide
theorem test_hyp_SextOutsideSetErrs_low :
    (4 : Word).toNat ∈ [4, 5, 6, 8, 9, 10, 12, 13, 14, 16, 17, 18, 20, 21, 22, 24, 25, 26, 28, 29, 30] := by decide
theorem test_hyp_SextOutsideSetErrs_high : 32 ≤ (BitVec.ofNat 256 (2 ^ 32 + 3)).toNat := by decide
theorem test_hyp_SextCornerCases : (0 : Word).toNat ∈ Config.sextPositions ∧ byteLe y (0 : Word).toNat = 0x80 ∧
    (31 : Nat) < 32 ∧ (0 : Word).toNat < 31 := by decide
theorem test_hyp_ReservedCodesAreIllegal : 0x12 ≤ (State.reset.drive (requestWord 0x12 x 3)).op.toNat := by decide
theorem test_hyp_OtherRequestsSucceed : errorOf (State.reset.drive (requestWord 0x11 x 31)).request = none := by decide
theorem test_hyp_EveryInstrCompletes : ∀ a b : Word, Instr.sext x 27 = .sext a b → b.toNat ∈ Config.sextPositions := by
  intro a b h
  obtain ⟨-, rfl⟩ := Instr.sext.inj h
  decide
theorem test_hyp_ErroneousResponse : step (State.reset.drive (requestWord 0x11 x 32)) = .fault (.undefinedBytePosition 32) :=
  rfl
theorem test_hyp_FrameOfEveryInstr : exec (.copy x) State.reset = .next (State.reset.respond x 0) := rfl
theorem test_hyp_FrameOfEveryInstr_value : (Instr.copy x).isPredicate = false := by decide
theorem test_hyp_FormatAIgnoresB : ((0x07 : BitVec 5) = 0x00 ∨ (0x07 : BitVec 5) = 0x06 ∨ (0x07 : BitVec 5) = 0x07) := by decide
theorem test_hyp_OrderOfRequestsIsIrrelevant :
    List.Perm [requestWord 0x01 x y, requestWord 0x12 0 0] [requestWord 0x12 0 0, requestWord 0x01 x y] := .swap ..
theorem test_hyp_StepSettles : step (State.reset.drive (requestWord 0x00 x y))
    = .next ((State.reset.drive (requestWord 0x00 x y)).respond (aField (requestWord 0x00 x y)) 0) := rfl
theorem test_hyp_PortsInvKept : ∃ s t : State, step s = .next t ∧ s ≠ t :=
  ⟨{ State.reset with a := 1 }, { State.reset with a := 1, r := 1 }, rfl, by decide⟩
theorem test_hyp_ErrorEndsSequence : runSequence State.reset [(0, x)] [] = .completed [(0, x)] ∧
    (Line.mk 1 0x11 (.bound 0) (.literal (.number 4))).request [(0, x)] = some (requestWord 0x11 x 4) ∧
    errorOf (requestWord 0x11 x 4) = some (.undefinedBytePosition 4) := by decide
theorem test_hyp_WellFormedSequenceRuns : wfSequence ([(0, x)].map Prod.fst) [⟨1, 0x06, .bound 0, .literal (.number 0)⟩] = true := by
  decide
theorem test_hyp_WellFormedSequenceRuns_errs :
    wfSequence ([(0, x)].map Prod.fst) [⟨1, 0x11, .bound 0, .literal (.number 4)⟩] = true := by decide

end Sys2Proof.Tests
end

section
/-! Proofs for the scope statements (00_scope.md): the signed reading of a value, a step as the decoded operation, and
the answer as a function of the request. -/

namespace Sys2Proof.Machine

/-! ### The signed reading (R10) -/

/-- The model's sign bit is the library's `msb`, which the library's signed reading turns on. -/
theorem signBit_eq_msb (v : Word) : signBit v = v.msb := by
  rw [signBit_eq, BitVec.msb_eq_getLsbD_last]

/-- `signed(v) = v - 2^256 * v[255]` (R10). -/
theorem toInt_eq_toNat_sub_signBit (v : Word) : v.toInt = (v.toNat : Int) - 2 ^ 256 * (signBit v).toNat := by
  rw [BitVec.toInt_eq_msb_cond, signBit_eq_msb]
  cases v.msb <;> simp

/-- Settles O3: the sign is read off limb 7 by definition, and the range is the library's for 256 bits. -/
theorem signedReadingOfWord : Obligations.SignedReadingOfWord := by
  intro v
  have hlow : -2 ^ 255 ≤ v.toInt := BitVec.le_toInt v
  have hhigh : v.toInt < 2 ^ 255 := BitVec.toInt_lt
  exact ⟨signBit_eq v, rfl, toInt_eq_toNat_sub_signBit v, hlow, Int.le_sub_one_of_lt hhigh⟩

/-! ### A step is the decoded operation (R1, R65) -/

/-- Every op code the encoder writes is the row of the op code map that gives the operation back (R60, R64). -/
theorem decode_encode (i : Instr) : decode (encode i) = .ok i := by
  rw [encode, decode_requestWord]
  cases i <;> rfl

/-- Where the request on the input ports decodes, `step` is `exec` of what it decodes to. -/
theorem step_of_decode_ok {s : State} {i : Instr} (h : decode s.request = .ok i) : step s = exec i s := by
  simp only [step, fetch, h]

/-- Settles O11: the second clause is the first at the driven ports, where the request decodes to `i`. -/
theorem stepRunsDecodedInstr : Obligations.StepRunsDecodedInstr := by
  refine ⟨fun s i h => step_of_decode_ok h, fun s i => step_of_decode_ok ?_⟩
  rw [State.drive_request, decode_encode]

/-! ### An answer depends on the request alone (R17, R20) -/

/-- A valid response keeps of the state only the request on its input ports. -/
theorem respond_eq_of_request (s : State) (v : Word) (f : BitVec 1) :
    s.respond v f = ⟨opField s.request, aField s.request, bField s.request, v, f, 0⟩ := by
  simp only [State.respond, State.request, opField_requestWord, aField_requestWord, bField_requestWord]

/-- An operation reads of the state nothing but the request on its input ports: no earlier output (R25). -/
theorem exec_eq_of_request_eq {s s' : State} (h : s.request = s'.request) (i : Instr) : exec i s = exec i s' := by
  have hrespond (v : Word) (f : BitVec 1) : s.respond v f = s'.respond v f := by
    rw [respond_eq_of_request s, respond_eq_of_request s', h]
  rcases exec_cases i s with ⟨-, v, hexec⟩ | ⟨-, p, hexec⟩ | ⟨a, b, rfl, hb, hexec⟩
  · rw [hexec s, hexec s', answerValue, answerValue, hrespond]
  · rw [hexec s, hexec s', answerPredicate, answerPredicate, hrespond]
  · rw [hexec]
    exact (execSext_of_not_mem hb s').symm

/-- The same request on the input ports gets the same answer, error or response (R17). -/
theorem step_eq_of_request_eq {s s' : State} (h : s.request = s'.request) : step s = step s' := by
  have hfetch : fetch s = fetch s' := congrArg decode h
  simp only [step, hfetch, exec_eq_of_request_eq h]

/-- Settles O52: after driving, the input ports hold that request whatever they held before. -/
theorem answerDependsOnRequestOnly : Obligations.AnswerDependsOnRequestOnly := by
  intro s s' req
  exact step_eq_of_request_eq (by rw [State.drive_request, State.drive_request])

end Sys2Proof.Machine
end

section
/-! Proofs for the state statements (10_state.md): what an operation leaves unchanged, the invariant of the ports, the
settled outputs, and a sequence's independence of the requests before it. -/

namespace Sys2Proof.Machine

/-! ### What an operation leaves unchanged (R26, R29, R148) -/

/-- The two forms a predicate drives are one truth value: `r = zext_256(flag)` (R148). -/
theorem zextBit_eq_setWidth_ofBool (p : Bool) : zextBit p = (BitVec.ofBool p).setWidth 256 := by
  cases p <;> rfl

/-- An operation that completes drives a valid response and nothing else, a predicate's in both its forms (R148), a value
operation's with `flag = 0` (R26). -/
theorem exec_next {i : Instr} {s t : State} (h : exec i s = .next t) :
    ∃ v f, t = s.respond v f ∧ (i.isPredicate = true → v = f.setWidth 256) ∧ (i.isPredicate = false → f = 0) := by
  rcases exec_cases i s with ⟨hvalue, v, hexec⟩ | ⟨hpred, p, hexec⟩ | ⟨_, b, -, -, hexec⟩
  · rw [hexec] at h
    exact ⟨v, 0, answerValue_next h, by simp [hvalue], fun _ => rfl⟩
  · rw [hexec] at h
    exact ⟨_, _, answerPredicate_next h, fun _ => zextBit_eq_setWidth_ofBool p, by simp [hpred]⟩
  · exact absurd (hexec.symm.trans h) (raise_ne_next (.undefinedBytePosition b) t)

/-- Settles O50: the fields of a valid response. -/
theorem frameOfEveryInstr : Obligations.FrameOfEveryInstr := by
  intro i s t h
  obtain ⟨v, f, rfl, -, hvalue⟩ := exec_next h
  exact ⟨rfl, rfl, rfl, rfl, hvalue⟩

/-! ### The op code of a decoded operation (R64) -/

/-- The op code map sends each assigned op code to the operation that carries it (R64). -/
theorem opCode_of_decodeFields {op : BitVec 5} {a b : Word} {i : Instr} (h : decodeFields op a b = .ok i) :
    i.opCode = op := by
  apply BitVec.eq_of_toNat_eq
  unfold decodeFields at h
  split at h <;> cases h <;> rename_i hop <;> exact hop.symm

/-- Every operation's op code is assigned (R64). -/
theorem opAssigned_opCode (i : Instr) : opAssigned i.opCode = true := by
  cases i <;> rfl

/-- The predicates are the operations with op codes 0x07 to 0x0F (R64). -/
theorem predicateCode_opCode (i : Instr) : predicateCode i.opCode = i.isPredicate := by
  cases i <;> rfl

/-! ### The invariant of the ports -/

/-- A request is safe where its op code is assigned and, for SEXT, its byte position is in S (R220, R221). -/
theorem State.safe_iff (s : State) :
    s.Safe ↔ opAssigned s.op = true ∧ (s.op = 0x11 → s.b.toNat ∈ Config.sextPositions) := by
  simp only [State.Safe, errorOf, State.request, opField_requestWord, bField_requestWord, opAssigned, decide_eq_true_eq]
  split
  next hreserved => simp only [reduceCtorEq, false_iff, not_and]; omega
  next hassigned =>
    have hle : s.op.toNat ≤ 0x11 := by omega
    simp only [hle, true_and, ite_eq_right_iff, reduceCtorEq, imp_false, not_and, not_not]

/-- A step that completes ran the operation that the input ports spell. -/
theorem step_next {s t : State} (h : step s = .next t) :
    ∃ i, decodeFields s.op s.a s.b = .ok i ∧ exec i s = .next t := by
  rcases step_cases s with ⟨i, hfetch, hstep⟩ | ⟨op, -, hstep⟩
  · exact ⟨i, (decode_requestWord ..).symm.trans hfetch, hstep.symm.trans h⟩
  · exact absurd (hstep.symm.trans h) (raise_ne_next (.illegalOp op) t)

/-- SEXT completes only at a byte position in S (R194). -/
theorem mem_of_exec_sext_next {a b : Word} {s t : State} (h : exec (.sext a b) s = .next t) :
    b.toNat ∈ Config.sextPositions := by
  rw [← isSextPosition_iff]
  by_contra hb
  rw [Bool.not_eq_true] at hb
  exact raise_ne_next _ t ((execSext_of_not_mem hb s).symm.trans h)

/-- A request that the core answers with a response is one to which no error applies (R221). -/
theorem safe_of_step_next {s t : State} (h : step s = .next t) : s.Safe := by
  obtain ⟨i, hdecode, hexec⟩ := step_next h
  refine (State.safe_iff s).mpr ⟨opCode_of_decodeFields hdecode ▸ opAssigned_opCode i, fun hop => ?_⟩
  rw [hop] at hdecode
  have hsext : Instr.sext s.a s.b = i := Except.ok.inj hdecode
  subst hsext
  exact mem_of_exec_sext_next hexec

/-- Settles O55: the step's request was safe and stands on the ports still, and what it drives there is the valid
response of an operation whose class its op code gives. -/
theorem portsInvKept : Obligations.PortsInvKept := by
  intro s t h
  have hsafe : s.Safe := safe_of_step_next h
  obtain ⟨i, hdecode, hexec⟩ := step_next h
  have hclass : predicateCode s.op = i.isPredicate := by
    rw [← opCode_of_decodeFields hdecode, predicateCode_opCode]
  obtain ⟨v, f, rfl, hpred, hvalue⟩ := exec_next hexec
  rw [← hclass] at hpred hvalue
  exact ⟨hsafe, rfl, hpred, hvalue⟩

/-- Settles O57: the ports spell `COPY 0`, which answers 0 on all three outputs. -/
theorem resetPortsAreSettled : Obligations.ResetPortsAreSettled := by
  have hdecode : decode State.reset.request = .ok (.copy 0) := decode_encode (.copy 0)
  exact ⟨rfl, step_of_decode_ok hdecode⟩

/-- Settles O56: `State.reset` is what a step answers, and every such state meets the invariant. -/
theorem portsInvAtReset : Obligations.PortsInvAtReset :=
  portsInvKept _ _ resetPortsAreSettled.2

/-! ### Settled outputs (R20, R251) -/

/-- A step leaves the request on the input ports (R29). -/
theorem request_of_step_next {s t : State} (h : step s = .next t) : t.request = s.request := by
  obtain ⟨i, -, hexec⟩ := step_next h
  obtain ⟨v, f, rfl, -⟩ := exec_next hexec
  exact State.respond_request s v f

/-- Settles O54: the same request stands on the input ports, so the same answer comes back. -/
theorem stepSettles : Obligations.StepSettles := fun _ _ h =>
  (step_eq_of_request_eq (request_of_step_next h)).trans h

/-! ### Sequences and history (R25, R227) -/

/-- Settles O60: the first line's answer is the same from any ports, and with it the ports that the other lines start
from, so no induction is needed. -/
theorem sequenceIgnoresHistory : Obligations.SequenceIgnoresHistory := by
  intro s s' names ls
  have hpresent (req : BitVec 517) : present s req = present s' req := answerDependsOnRequestOnly s s' req
  cases ls with
  | nil => rfl
  | cons l rest => simp only [runSequence, hpresent]

end Sys2Proof.Machine
end

section
/-! Proofs for the memory and ordering statements (20_memory.md): the limb that holds a byte, in both byte numberings,
and the independence of the requests. -/

namespace Sys2Proof.Machine

/-! ### Bytes and limbs (R42, R43) -/

/-- Bits inside a limb are bits of the value, above those of the lower limbs (R8, R40). -/
theorem extractLsb'_limb (v : Word) (i : Nat) {start len : Nat} (h : start + len ≤ 32) :
    (limb v i).extractLsb' start len = v.extractLsb' (32 * i + start) len := by
  apply BitVec.eq_of_getLsbD_eq
  intro j hj
  have hinLimb : start + j < 32 := by omega
  simp only [BitVec.getLsbD_extractLsb', getLsbD_limb, hinLimb, decide_true, Bool.true_and, Nat.add_assoc]

/-- Byte k from the least significant is byte k mod 4 of limb k div 4 (R43). -/
theorem byteLe_eq_extractLsb'_limb (v : Word) (k : Nat) :
    byteLe v k = (limb v (k / 4)).extractLsb' (8 * (k % 4)) 8 := by
  have hinLimb : 8 * (k % 4) + 8 ≤ 32 := by omega
  have hstart : 32 * (k / 4) + 8 * (k % 4) = 8 * k := by omega
  rw [extractLsb'_limb v (k / 4) hinLimb, hstart, byteLe]

/-- Byte n from the most significant stands in limb 7 - (n div 4) (R42): it is byte 31 - n of the other numbering. -/
theorem byteBe_eq_extractLsb'_limb (v : Word) {n : Nat} (hn : n < 32) :
    byteBe v n = (limb v (7 - n / 4)).extractLsb' (24 - 8 * (n % 4)) 8 := by
  have hlimb : (31 - n) / 4 = 7 - n / 4 := by omega
  have hbits : 8 * ((31 - n) % 4) = 24 - 8 * (n % 4) := by omega
  rw [byteBe, byteLe_eq_extractLsb'_limb, hlimb, hbits]

/-- Byte n from the most significant is bits 255 - 8n to 248 - 8n (R42). -/
theorem byteBe_eq_extractLsb' (v : Word) {n : Nat} (hn : n < 32) :
    byteBe v n = v.extractLsb' (248 - 8 * n) 8 := by
  have hbits : 8 * (31 - n) = 248 - 8 * n := by omega
  rw [byteBe, byteLe, hbits]

/-- The two numberings run in opposite directions, so counting twice gives the byte back (R43). -/
theorem byteLe_eq_byteBe (v : Word) {k : Nat} (hk : k < 32) : byteLe v k = byteBe v (31 - k) := by
  have hback : 31 - (31 - k) = k := by omega
  rw [byteBe, hback]

/-- Settles O2: the places in the limbs come from those of `byte_le` alone, since `byte_be` is `byte_le` at 31 - k. -/
theorem bytesLieInLimbs : Obligations.BytesLieInLimbs := fun v k hk =>
  ⟨byteBe_eq_extractLsb' v hk, byteBe_eq_extractLsb'_limb v hk, rfl, byteLe_eq_extractLsb'_limb v k,
    byteLe_eq_byteBe v hk⟩

/-! ### Requests are independent (R46) -/

/-- Requests issued in turn get each the answer it gets when presented alone, from any port levels: what an answer
leaves on the ports is not read by the next request. -/
theorem issueAll_eq_map_present (s s₀ : State) (reqs : List (BitVec 517)) :
    issueAll s reqs = reqs.map (present s₀) := by
  induction reqs generalizing s with
  | nil => rfl
  | cons req rest ih => rw [issueAll, ih, List.map_cons, answerDependsOnRequestOnly s s₀ req]

/-- A request stands beside the answer it gets when presented alone. -/
theorem zip_issueAll (s s₀ : State) (reqs : List (BitVec 517)) :
    reqs.zip (issueAll s reqs) = reqs.map fun req => (req, present s₀ req) := by
  rw [issueAll_eq_map_present s s₀, List.map_prod_left_eq_zip]

/-- Settles O53: the pairs are the requests under one function, and a function maps permuted lists to permuted lists. -/
theorem orderOfRequestsIsIrrelevant : Obligations.OrderOfRequestsIsIrrelevant := by
  intro s s' reqs reqs' hperm
  constructor
  · rw [zip_issueAll s s, zip_issueAll s' s]
    exact hperm.map _
  · rw [issueAll_eq_map_present s s, List.length_map]

end Sys2Proof.Machine
end

section
/-! Proofs for the encoding statements (30_encoding.md): the request and response words, the op code map and the decoder,
the answers that the op code and the error table decide, and the host's request sequences. -/

namespace Sys2Proof

/-! ### Words made of fields (R60, R61) -/

/-- The number of a concatenation: the upper part with its weight, and the lower part. -/
theorem toNat_append_eq_add {w v : Nat} (x : BitVec w) (y : BitVec v) :
    (x ++ y).toNat = x.toNat * 2 ^ v + y.toNat := by
  rw [BitVec.toNat_append, ← Nat.shiftLeft_add_eq_or_of_lt y.isLt, Nat.shiftLeft_eq]

/-- The request word as the weighted sum of its fields (R60). -/
theorem toNat_requestWord (op : BitVec 5) (a b : Word) :
    (requestWord op a b).toNat = op.toNat * 2 ^ 512 + a.toNat * 2 ^ 256 + b.toNat := by
  rw [requestWord, toNat_append_eq_add, toNat_append_eq_add]
  omega

/-- What lies in the request word above the 256 bits of `b`, within `a`, is the part of `a` there (R60). -/
theorem extractLsb'_requestWord_a (op : BitVec 5) (a b : Word) {start len : Nat} (h : start + len ≤ 256) :
    (requestWord op a b).extractLsb' (256 + start) len = a.extractLsb' start len := by
  rw [requestWord, BitVec.extractLsb'_append_eq_of_le (Nat.le_add_right 256 start), Nat.add_sub_cancel_left,
    BitVec.extractLsb'_append_eq_of_add_le h]

/-- What lies in the low 256 bits of the request word is the part of `b` there (R60). -/
theorem extractLsb'_requestWord_b (op : BitVec 5) (a b : Word) {start len : Nat} (h : start + len ≤ 256) :
    (requestWord op a b).extractLsb' start len = b.extractLsb' start len :=
  BitVec.extractLsb'_append_eq_of_add_le h

/-- Settles O4: the limbs lie in the word where they lie in their operand, those of `a` 256 bits up. -/
theorem requestWordLayout : Obligations.RequestWordLayout := by
  intro op a b
  have hlimb (i : Nat) (hi : i < 8) : 32 * i + 32 ≤ 256 := by omega
  exact ⟨toNat_requestWord op a b, opField_requestWord op a b,
    fun i hi => (extractLsb'_requestWord_a op a b (hlimb i hi)).symm,
    fun i hi => (extractLsb'_requestWord_b op a b (hlimb i hi)).symm⟩

/-- The response word as the weighted sum of its fields (R61). -/
theorem Machine.Response.toNat_word (p : Machine.Response) :
    p.word.toNat = p.err.toNat * 2 ^ 257 + p.flag.toNat * 2 ^ 256 + p.r.toNat := by
  rw [Machine.Response.word, toNat_append_eq_add, toNat_append_eq_add]
  omega

/-- Settles O5: `r` is the lower part of the word, and `err` and `flag` are the two parts of its upper part. -/
theorem responseWordLayout : Obligations.ResponseWordLayout := by
  intro p
  have hupper (start len : Nat) : p.word.extractLsb' (256 + start) len = (p.err ++ p.flag).extractLsb' start len := by
    rw [Machine.Response.word, BitVec.extractLsb'_append_eq_of_le (Nat.le_add_right 256 start), Nat.add_sub_cancel_left]
  exact ⟨p.toNat_word, (hupper 1 2).trans BitVec.extractLsb'_append_eq_left,
    (hupper 0 1).trans BitVec.extractLsb'_append_eq_right, BitVec.extractLsb'_append_eq_right⟩

/-! ### The op code map (R64, R65, R66) -/

/-- The op code map hands `a` on as it stands, and `b` to the operations that read it (R63, R66). -/
theorem operands_of_decodeFields {op : BitVec 5} {a b : Word} {i : Instr} (h : decodeFields op a b = .ok i) :
    i.operandA = a ∧ i.operandB = if i.readsB then b else 0 := by
  unfold decodeFields at h
  split at h <;> cases h <;> exact ⟨rfl, rfl⟩

/-- An assigned op code selects an operation, whatever the operand fields hold (R65). -/
theorem decodeFields_of_assigned {op : BitVec 5} (h : op.toNat ≤ 0x11) (a b : Word) :
    ∃ i, decodeFields op a b = .ok i := by
  unfold decodeFields
  interval_cases op.toNat <;> exact ⟨_, rfl⟩

/-- A reserved op code selects none, whatever the operand fields hold (R65, R67). -/
theorem decodeFields_of_reserved {op : BitVec 5} (h : 0x12 ≤ op.toNat) (a b : Word) :
    decodeFields op a b = .error (.illegalOp op) := by
  unfold decodeFields
  split
  case h_19 => rfl
  all_goals omega

/-- Settles O9: the encoder writes assigned op codes only, and the decoder reads the three fields back. -/
theorem decodeOfEncode : Obligations.DecodeOfEncode := by
  intro i
  obtain ⟨hwf, -⟩ := Laws.RequestFields.of_assigned i (Machine.opAssigned_opCode i)
  exact ⟨hwf, Machine.decode_encode i⟩

/-- Settles O10: the op code and the operands of the decoded operation are the fields, up to a `b` it does not read. -/
theorem encodeOfDecode : Obligations.EncodeOfDecode := by
  intro req i h
  obtain ⟨ha, hb⟩ := operands_of_decodeFields h
  rw [encode, Machine.opCode_of_decodeFields h, ha, hb]

/-- Format A has the op codes 0x00, 0x06 and 0x07 (R62, R64). -/
theorem readsB_eq_false_iff (i : Instr) : i.readsB = false ↔ i.opCode.toNat ∈ [0x00, 0x06, 0x07] := by
  cases i <;> simp [Instr.readsB, Instr.opCode]

/-- The mnemonics in the order of the op codes (R64). -/
theorem getElem?_opCode_mnemonics (i : Instr) :
    ["COPY", "ADD", "SUB", "AND", "OR", "XOR", "NOT", "ISZERO", "EQ", "NE", "ULT", "UGT", "ULE", "UGE", "SLT", "SGT",
      "BYTE", "SEXT"][i.opCode.toNat]? = some (Machine.mnemonic i) := by
  cases i <;> rfl

/-- Settles O6: a row's operation is what `decodeFields` selects at the row's code. -/
theorem opCodeMap : Obligations.OpCodeMap := by
  refine ⟨fun a b => ?_, fun op a b h => ?_, fun i => ⟨getElem?_opCode_mnemonics i, readsB_eq_false_iff i, ?_⟩⟩
  · simp only [decode_requestWord]
    exact ⟨rfl, rfl, rfl, rfl, rfl, rfl, rfl, rfl, rfl, rfl, rfl, rfl, rfl, rfl, rfl, rfl, rfl, rfl⟩
  · rw [decode_requestWord, decodeFields_of_reserved h]
  · rw [← Machine.predicateCode_opCode, Machine.predicateCode, decide_eq_true_eq]

/-- Settles O7: the kernel runs the decoder on the nine words. -/
theorem writtenOutWordsDecode : Obligations.WrittenOutWordsDecode := by
  unfold Obligations.WrittenOutWordsDecode
  decide +kernel

namespace Machine

/-! ### Reserved op codes and format A (R65, R66, R67) -/

/-- A step runs the operation that the op code map selects for the levels on the input ports. -/
theorem step_of_decodeFields {s : State} {i : Instr} (h : decodeFields s.op s.a s.b = .ok i) : step s = exec i s :=
  step_of_decode_ok ((decode_requestWord ..).trans h)

/-- A step at a reserved op code takes the error IllegalOp. -/
theorem step_of_reserved {s : State} (h : 0x12 ≤ s.op.toNat) : step s = .fault (.illegalOp s.op) := by
  have hfetch : fetch s = .error (.illegalOp s.op) :=
    (decode_requestWord ..).trans (decodeFields_of_reserved h s.a s.b)
  simp only [step, hfetch, rejectRequest, raise]

/-- Settles O45: the op code alone decides it. -/
theorem reservedCodesAreIllegal : Obligations.ReservedCodesAreIllegal := fun _ h => ⟨step_of_reserved h, rfl⟩

/-- Settles O8: an assigned code selects an operation with the fields as operands, any other gets the error. -/
theorem decodingIsTotal : Obligations.DecodingIsTotal := by
  intro req
  split
  next hassigned =>
    obtain ⟨i, hdecode⟩ := decodeFields_of_assigned hassigned (aField req) (bField req)
    obtain ⟨ha, hb⟩ := operands_of_decodeFields hdecode
    exact ⟨i, hdecode, opCode_of_decodeFields hdecode, ha, fun hreads => hb.trans (if_pos hreads)⟩
  next hassigned =>
    have hreserved : 0x12 ≤ (opField req).toNat := Nat.lt_of_not_le hassigned
    exact ⟨decodeFields_of_reserved hreserved _ _, fun s => step_of_reserved (s := s.drive req) hreserved⟩

/-- An operation that does not read `b` completes, with one response from all port levels. -/
theorem exec_of_readsB_eq_false {i : Instr} (h : i.readsB = false) :
    ∃ v f, ∀ s, exec i s = .next (s.respond v f) := by
  rcases exec_cases i State.reset with ⟨-, v, hexec⟩ | ⟨-, p, hexec⟩ | ⟨a, b, rfl, -, -⟩
  · exact ⟨v, 0, hexec⟩
  · exact ⟨zextBit p, BitVec.ofBool p, hexec⟩
  · cases h

/-- The op codes of format A select one operation for every `b` (R66). -/
theorem decodeFields_of_formatA {op : BitVec 5} (h : op = 0x00 ∨ op = 0x06 ∨ op = 0x07) (a : Word) :
    ∃ i, i.readsB = false ∧ ∀ b, decodeFields op a b = .ok i := by
  rcases h with rfl | rfl | rfl
  · exact ⟨.copy a, rfl, fun _ => rfl⟩
  · exact ⟨.not a, rfl, fun _ => rfl⟩
  · exact ⟨.isZero a, rfl, fun _ => rfl⟩

/-- Settles O51: `b` changes neither the decoded operation nor its response. -/
theorem formatAIgnoresB : Obligations.FormatAIgnoresB := by
  refine ⟨fun s a op hop => ?_, fun a => ⟨rfl, rfl, rfl⟩⟩
  obtain ⟨i, hreads, hdecode⟩ := decodeFields_of_formatA hop a
  obtain ⟨v, f, hexec⟩ := exec_of_readsB_eq_false hreads
  exact ⟨v, f, fun b => (step_of_decodeFields (s := ⟨op, a, b, s.r, s.flag, s.err⟩) (hdecode b)).trans (hexec _)⟩

/-! ### The error table (R220, R221) -/

/-- An entry of the error table is a reserved op code, or a SEXT with its position outside S (R220). -/
theorem errorOf_eq_some {req : BitVec 517} {f : Fault} (h : errorOf req = some f) :
    (0x12 ≤ (opField req).toNat ∧ f = .illegalOp (opField req)) ∨
    (opField req = 0x11 ∧ (bField req).toNat ∉ Config.sextPositions ∧ f = .undefinedBytePosition (bField req)) := by
  unfold errorOf at h
  split_ifs at h with hreserved hsext <;> cases h
  · exact .inl ⟨hreserved, rfl⟩
  · exact .inr ⟨hsext.1, hsext.2, rfl⟩

/-- A request with an entry of the error table is answered with that error. -/
theorem present_of_errorOf_eq_some {req : BitVec 517} {f : Fault} (h : errorOf req = some f) (s : State) :
    present s req = .fault f := by
  rcases errorOf_eq_some h with ⟨hreserved, rfl⟩ | ⟨hop, hb, rfl⟩
  · exact step_of_reserved (s := s.drive req) hreserved
  · have hdecode : decodeFields (opField req) (aField req) (bField req) = .ok (.sext (aField req) (bField req)) := by
      rw [hop]
      rfl
    rw [← isSextPosition_iff, Bool.not_eq_true] at hb
    exact (step_of_decodeFields (s := s.drive req) hdecode).trans (execSext_of_not_mem hb _)

/-- A request with no entry of the error table is answered with a response (R221). -/
theorem present_of_errorOf_eq_none {req : BitVec 517} (h : errorOf req = none) (s : State) :
    ∃ t, present s req = .next t := by
  have hsafe : (s.drive req).Safe := by rw [State.Safe, State.drive_request, h]
  obtain ⟨hassigned, hpos⟩ := (State.safe_iff _).mp hsafe
  obtain ⟨i, hdecode⟩ := decodeFields_of_assigned (of_decide_eq_true hassigned) (aField req) (bField req)
  have hstep : present s req = exec i (s.drive req) := step_of_decodeFields hdecode
  rw [hstep]
  rcases exec_cases i (s.drive req) with ⟨-, v, hexec⟩ | ⟨-, p, hexec⟩ | ⟨a, b, rfl, hb, -⟩
  · exact ⟨_, hexec _⟩
  · exact ⟨_, hexec _⟩
  · obtain ⟨-, hoperand⟩ := operands_of_decodeFields hdecode
    have hb_eq : b = bField req := hoperand
    have hsext : opField req = 0x11 := (opCode_of_decodeFields hdecode).symm
    have hin : isSextPosition (bField req) = true := (isSextPosition_iff _).mpr (hpos hsext)
    rw [hb_eq, hin] at hb
    cases hb

/-! ### Sequences (R70, R253) -/

section

variable {s t : State} {names names' : Names} {l : Line} {req : BitVec 517}

/-- A line that is answered binds its name to the `r` of its response, and the next line follows (R70). -/
theorem runSequence_cons_of_next (hreq : l.request names = some req) (ht : present s req = .next t)
    (rest : List Line) : runSequence s names (l :: rest) = runSequence t ((l.name, t.r) :: names) rest := by
  simp only [runSequence, hreq, ht]

/-- A line that errs ends the sequence, whatever lines follow (R70). -/
theorem runSequence_cons_of_errorOf {f : Fault} (hreq : l.request names = some req) (hf : errorOf req = some f)
    (rest : List Line) : runSequence s names (l :: rest) = .erred names f := by
  simp only [runSequence, hreq, present_of_errorOf_eq_some hf]

/-- A well-formed line issues a request with no entry of the error table, or it is a SEXT with its position outside S,
the one error left to an assigned op code (R194, R220). -/
theorem errorOf_of_line_wf (h : l.wf (names.map Prod.fst) = true) :
    ∃ req, l.request names = some req ∧
      (errorOf req = none ∨
        l.op = 0x11 ∧ ∃ b : Word, b.toNat ∉ Config.sextPositions ∧ errorOf req = some (.undefinedBytePosition b)) := by
  obtain ⟨a, b, hreq, hassigned⟩ := Line.request_of_wf h
  refine ⟨_, hreq, ?_⟩
  cases hf : errorOf (requestWord l.op a b) with
  | none => exact .inl rfl
  | some f =>
    rcases errorOf_eq_some hf with ⟨hreserved, -⟩ | ⟨hop, hb, rfl⟩
    · rw [opField_requestWord] at hreserved
      exact absurd (of_decide_eq_true hassigned) (Nat.not_le_of_lt hreserved)
    · rw [opField_requestWord] at hop
      exact .inr ⟨hop, _, hb, rfl⟩

/-- The sequence completes, each line binding its name to the `r` of the response to its own request after the lines
before it completed (R70, R21): the first way `Obligations.WellFormedSequenceRuns` lets a sequence end. -/
def CompletesLineByLine (s : State) (names : Names) (ls : List Line) : Prop :=
  ∃ new : Names, runSequence s names ls = .completed (new ++ names) ∧
    new.map Prod.fst = (ls.map Line.name).reverse ∧
    ∀ (before : List Line) (l : Line) (rest : List Line), ls = before ++ l :: rest →
      ∃ (names' : Names) (req : BitVec 517) (t : State),
        runSequence s names before = .completed names' ∧ l.request names' = some req ∧ present s req = .next t ∧
        runSequence s names (before ++ [l]) = .completed ((l.name, t.r) :: names')

/-- The lines before it complete, and the sequence ends at a SEXT line with its position outside S (R70, R194): the
second way `Obligations.WellFormedSequenceRuns` lets a sequence end. -/
def StopsAtSextLine (s : State) (names : Names) (ls : List Line) : Prop :=
  ∃ (before : List Line) (l : Line) (rest : List Line) (names' : Names) (req : BitVec 517) (b : Word),
    ls = before ++ l :: rest ∧ runSequence s names before = .completed names' ∧ l.request names' = some req ∧
    l.op = 0x11 ∧ b.toNat ∉ Config.sextPositions ∧ errorOf req = some (.undefinedBytePosition b) ∧
    runSequence s names ls = .erred names' (.undefinedBytePosition b)

theorem completesLineByLine_nil (s : State) (names : Names) : CompletesLineByLine s names [] :=
  ⟨[], rfl, rfl, fun before l rest h => by simp at h⟩

/-- An answered line in front of lines that complete: the longer sequence is cut at this line, or at one
of the lines that follow it. -/
theorem CompletesLineByLine.cons {ls : List Line} (hreq : l.request names = some req) (ht : present s req = .next t)
    (hls : CompletesLineByLine t ((l.name, t.r) :: names) ls) : CompletesLineByLine s names (l :: ls) := by
  have hfirst := runSequence_cons_of_next hreq ht
  obtain ⟨new, hrun, hnew, hlines⟩ := hls
  refine ⟨new ++ [(l.name, t.r)], ?_, ?_, fun before l' rest hsplit => ?_⟩
  · rw [hfirst, hrun, List.append_assoc, List.singleton_append]
  · rw [List.map_append, hnew, List.map_singleton, List.map_cons, List.reverse_cons]
  · cases before with
    | nil =>
      cases hsplit
      exact ⟨names, req, t, rfl, hreq, ht, hfirst []⟩
    | cons first before =>
      cases hsplit
      obtain ⟨names', req', t', hbefore, hreq', ht', hline⟩ := hlines before l' rest rfl
      rw [answerDependsOnRequestOnly t s] at ht'
      exact ⟨names', req', t', (hfirst _).trans hbefore, hreq', ht', (hfirst _).trans hline⟩

/-- An answered line in front of lines that stop at a SEXT line. -/
theorem StopsAtSextLine.cons {ls : List Line} (hreq : l.request names = some req) (ht : present s req = .next t)
    (hls : StopsAtSextLine t ((l.name, t.r) :: names) ls) : StopsAtSextLine s names (l :: ls) := by
  have hfirst := runSequence_cons_of_next hreq ht
  obtain ⟨before, l', rest, names', req', b, rfl, hbefore, hline, hop, hb, hf, hrun⟩ := hls
  exact ⟨l :: before, l', rest, names', req', b, rfl, (hfirst _).trans hbefore, hline, hop, hb, hf,
    (hfirst _).trans hrun⟩

end

/-- Settles O58: after the completed lines the sequence is at the line that errs. -/
theorem errorEndsSequence : Obligations.ErrorEndsSequence := by
  intro s before rest names names' l req f hbefore hreq hf
  obtain ⟨t, ht⟩ := runSequence_append hbefore (l :: rest)
  rw [ht, runSequence_cons_of_errorOf hreq hf]

/-- Settles O59, by induction on the lines: the first is answered and the rest follow from the longer names, or it is
the SEXT line at which the sequence stops. -/
theorem wellFormedSequenceRuns : Obligations.WellFormedSequenceRuns := by
  intro s names ls hwf
  change CompletesLineByLine s names ls ∨ StopsAtSextLine s names ls
  induction ls generalizing s names with
  | nil => exact .inl (completesLineByLine_nil s names)
  | cons l rest ih =>
    obtain ⟨hl, hrest⟩ := (Bool.and_eq_true _ _).mp hwf
    obtain ⟨req, hreq, hnone | ⟨hop, b, hb, hf⟩⟩ := errorOf_of_line_wf hl
    · obtain ⟨t, ht⟩ := present_of_errorOf_eq_none hnone s
      exact (ih t ((l.name, t.r) :: names) hrest).imp (.cons hreq ht) (.cons hreq ht)
    · exact .inr ⟨[], l, rest, names, req, b, rfl, rfl, hreq, hop, hb, hf, runSequence_cons_of_errorOf hreq hf rest⟩

end Machine

end Sys2Proof
end

section
/-! Proofs for the construction and copy statements (40_construct_copy.md): a value is its eight limbs in exactly one
way, and COPY is the identity. -/

namespace Sys2Proof.Machine

/-! ### construct (R90) -/

/-- Limb i of `construct(w7, ..., w0)` is `wi`: `construct` is `fromLimbs` of its arguments, counted from the last. -/
theorem limb_construct (w7 w6 w5 w4 w3 w2 w1 w0 : Limb) {i : Nat} (hi : i < 8) :
    limb (construct w7 w6 w5 w4 w3 w2 w1 w0) i = [w0, w1, w2, w3, w4, w5, w6, w7].getD i 0 :=
  limb_fromLimbs (fun j => [w0, w1, w2, w3, w4, w5, w6, w7].getD j 0) i hi

/-- Putting the limbs of a value together gives the value back (R90). -/
theorem fromLimbs_limb (v : Word) : fromLimbs (limb v) = v :=
  fromLimbs_eq_of_limbs fun _ _ => rfl

/-- Settles O1: the limbs determine the value (`fromLimbs_limb`) and the value determines the limbs (`limb_construct`);
the rule's example is the weighted sum, evaluated. -/
theorem constructPlacesLimbs : Obligations.ConstructPlacesLimbs := by
  refine ⟨fun w7 w6 w5 w4 w3 w2 w1 w0 => ?_, fun v => (fromLimbs_limb v).symm, toNat_construct ..⟩
  have hlimb (i : Nat) (hi : i < 8) := limb_construct w7 w6 w5 w4 w3 w2 w1 w0 hi
  exact ⟨toNat_construct .., hlimb 7 (by decide), hlimb 6 (by decide), hlimb 5 (by decide), hlimb 4 (by decide),
    hlimb 3 (by decide), hlimb 2 (by decide), hlimb 1 (by decide), hlimb 0 (by decide)⟩

/-! ### COPY (R92) -/

/-- Settles O12: row 0x00 of the op code map drops `b` (R64, R66), and COPY's answer is the value answer of `a`. -/
theorem copyIsIdentity : Obligations.CopyIsIdentity := fun a b s =>
  ⟨decode_requestWord 0x00 a b, answerValue_eq a s⟩

end Sys2Proof.Machine
end

section
/-! Proofs for the adder/subtractor statements (41_add_sub.md): one chain of carries behind ADD and SUB, the modular sum
and difference that their answers are, and the two-step carry and borrow tests. -/

namespace Sys2Proof.Machine

/-! ### A chain of carries (R100, R104) -/

section

variable {x y z : Word} {c : Nat → Nat}

/-- The induction of R101: limbs 0 to n - 1 of z, with the carry into limb n above them, are the sum of those of x and
y. -/
theorem mod_add_mod_of_carryChain (h0 : c 0 = 0)
    (hstep : ∀ i < 8, (limb x i).toNat + (limb y i).toNat + c i = (limb z i).toNat + c (i + 1) * 2 ^ 32)
    (n : Nat) (hn : n ≤ 8) :
    x.toNat % 2 ^ (32 * n) + y.toNat % 2 ^ (32 * n) = z.toNat % 2 ^ (32 * n) + c n * 2 ^ (32 * n) := by
  induction n with
  | zero => simp [h0, Nat.mod_one]
  | succ n ih =>
    have hlower := ih (by omega)
    have hlimb := hstep n (by omega)
    have hweight : 2 ^ (32 * (n + 1)) = 2 ^ (32 * n) * 2 ^ 32 := by rw [Nat.mul_succ, Nat.pow_add]
    rw [mod_succ_limb, mod_succ_limb, mod_succ_limb, hweight]
    linear_combination hlower + 2 ^ (32 * n) * hlimb

/-- A chain of carries from 0 makes z the sum of x and y modulo 2^256: the carry out of limb 7 is discarded. For ADD it
goes from a and b to r; for SUB, whose borrows are the carries of b + r, it goes from b and r to a. -/
theorem add_eq_of_carryChain (h0 : c 0 = 0)
    (hstep : ∀ i < 8, (limb x i).toNat + (limb y i).toNat + c i = (limb z i).toNat + c (i + 1) * 2 ^ 32) :
    x + y = z := by
  have hsum := mod_add_mod_of_carryChain h0 hstep 8 le_rfl
  rw [mod_all_limbs, mod_all_limbs, mod_all_limbs] at hsum
  apply BitVec.eq_of_toNat_eq
  rw [BitVec.toNat_add, hsum, Nat.add_mul_mod_self_right, Nat.mod_eq_of_lt z.isLt]

end

/-! ### ADD (R100, R101) -/

theorem toNat_addCarry_le_one (a b : Word) (i : Nat) : (addCarry a b i).toNat ≤ 1 :=
  Nat.le_of_lt_succ (addCarry a b i).isLt

/-- The carry out of limb i is one bit, so it is the quotient itself (R100). -/
theorem toNat_addCarry_succ (a b : Word) (i : Nat) :
    (addCarry a b (i + 1)).toNat = ((limb a i).toNat + (limb b i).toNat + (addCarry a b i).toNat) / 2 ^ 32 := by
  have := (limb a i).isLt
  have := (limb b i).isLt
  have := toNat_addCarry_le_one a b i
  rw [addCarry, BitVec.toNat_ofNat]
  omega

theorem toNat_addLimb (a b : Word) (i : Nat) :
    (addLimb a b i).toNat = ((limb a i).toNat + (limb b i).toNat + (addCarry a b i).toNat) % 2 ^ 32 :=
  BitVec.toNat_ofNat ..

/-- The limb-wise sum is the sum modulo 2^256 (R101). -/
theorem fromLimbs_addLimb (a b : Word) : fromLimbs (addLimb a b) = a + b := by
  refine (add_eq_of_carryChain (c := fun i => (addCarry a b i).toNat) rfl fun i hi => ?_).symm
  rw [limb_fromLimbs _ i hi, toNat_addLimb, toNat_addCarry_succ, Nat.mod_add_div']

/-- What ADD answers (R101). -/
theorem exec_add (a b : Word) (s : State) : exec (.add a b) s = .next { s with r := a + b, flag := 0, err := 0 } := by
  rw [← fromLimbs_addLimb]
  exact answerValue_eq _ s

theorem exec_add_of_eq {a b r : Word} (h : a + b = r) (s : State) :
    exec (.add a b) s = .next { s with r := r, flag := 0, err := 0 } := h ▸ exec_add a b s

/-- Settles O13: the carries are `addCarry`, and the sum modulo 2^256 has the limbs `addLimb`. -/
theorem addCarryChain : Obligations.AddCarryChain := by
  intro a b s
  refine ⟨decode_requestWord 0x01 a b, a + b, fun i => (addCarry a b i).toNat, rfl, fun i hi => ?_,
    BitVec.toNat_add a b, exec_add a b s⟩
  have hlimb : limb (a + b) i = addLimb a b i := by rw [← fromLimbs_addLimb, limb_fromLimbs _ i hi]
  exact ⟨toNat_addCarry_succ a b i, toNat_addCarry_le_one a b (i + 1), hlimb ▸ toNat_addLimb a b i⟩

/-- The sum modulo 2^256, written as a number. -/
theorem ofNat_toNat_add_toNat (a b : Word) : BitVec.ofNat 256 ((a.toNat + b.toNat) % 2 ^ 256) = a + b := by
  rw [← BitVec.toNat_add, BitVec.ofNat_toNat, BitVec.setWidth_eq]

/-- Settles O14: both readings of a value are congruent to it modulo 2^256. -/
theorem addIsSumModulo : Obligations.AddIsSumModulo := by
  intro a b s
  rw [ofNat_toNat_add_toNat, BitVec.ofInt_add, BitVec.ofInt_toInt, BitVec.ofInt_toInt]
  exact ⟨exec_add a b s, exec_add a b s⟩

/-- Settles O16: each case is an identity of addition modulo 2^256, and the three carry cases are evaluated. -/
theorem addCornerCases : Obligations.AddCornerCases := by
  intro s
  refine ⟨fun x => ⟨exec_add_of_eq (BitVec.add_zero x) s, exec_add_of_eq (BitVec.zero_add x) s⟩, fun x y => ?_,
    fun x y z => ⟨x + y, y + z, exec_add x y s, exec_add y z s, ?_⟩,
    exec_add_of_eq (by decide) s, exec_add_of_eq (by decide) s, exec_add_of_eq (by decide) s,
    fun x => exec_add_of_eq ?_ s⟩
  · rw [exec_add, exec_add, BitVec.add_comm]
  · rw [exec_add, exec_add, BitVec.add_assoc]
  · rw [Nat.two_mul, ofNat_toNat_add_toNat]

/-! ### SUB (R104, R105) -/

/-- The borrow out of limb i as a number (R104). -/
theorem toNat_subBorrow_succ (a b : Word) (i : Nat) :
    (subBorrow a b (i + 1)).toNat =
      if ((limb a i).toNat : Int) - (limb b i).toNat - (subBorrow a b i).toNat < 0 then 1 else 0 := by
  rw [subBorrow, BitVec.toNat_ofBool]
  exact Bool.cond_decide ..

theorem toNat_subLimb (a b : Word) (i : Nat) :
    ((subLimb a b i).toNat : Int) =
      (((limb a i).toNat : Int) - (limb b i).toNat - (subBorrow a b i).toNat) % 2 ^ 32 := by
  rw [subLimb, BitVec.toNat_ofInt, Int.toNat_of_nonneg (Int.emod_nonneg _ (by decide))]
  rfl

/-- Seen from the difference, a borrow is the carry of the addition that it undoes. -/
theorem toNat_limb_add_subLimb (a b : Word) (i : Nat) :
    (limb b i).toNat + (subLimb a b i).toNat + (subBorrow a b i).toNat
      = (limb a i).toNat + (subBorrow a b (i + 1)).toNat * 2 ^ 32 := by
  have hlimb := toNat_subLimb a b i
  have hborrow := toNat_subBorrow_succ a b i
  have := (limb a i).isLt
  have := (limb b i).isLt
  have := (subBorrow a b i).isLt
  split at hborrow <;> omega

/-- The limb-wise difference is the difference modulo 2^256 (R105). -/
theorem fromLimbs_subLimb (a b : Word) : fromLimbs (subLimb a b) = a - b := by
  rw [BitVec.eq_sub_iff_add_eq, BitVec.add_comm]
  refine add_eq_of_carryChain (c := fun i => (subBorrow a b i).toNat) rfl fun i hi => ?_
  rw [limb_fromLimbs _ i hi, toNat_limb_add_subLimb]

/-- What SUB answers (R105). -/
theorem exec_sub (a b : Word) (s : State) : exec (.sub a b) s = .next { s with r := a - b, flag := 0, err := 0 } := by
  rw [← fromLimbs_subLimb]
  exact answerValue_eq _ s

theorem exec_sub_of_eq {a b r : Word} (h : a - b = r) (s : State) :
    exec (.sub a b) s = .next { s with r := r, flag := 0, err := 0 } := h ▸ exec_sub a b s

/-- The difference modulo 2^256 is the non-negative residue of the difference of the numbers (R105). -/
theorem toNat_sub_eq_emod (a b : Word) : ((a - b).toNat : Int) = ((a.toNat : Int) - b.toNat) % 2 ^ 256 := by
  have := a.isLt
  have := b.isLt
  rw [BitVec.toNat_sub]
  omega

/-- Settles O17: the borrows are `subBorrow`, and the difference modulo 2^256 has the limbs `subLimb`. -/
theorem subBorrowChain : Obligations.SubBorrowChain := by
  intro a b s
  refine ⟨decode_requestWord 0x02 a b, a - b, fun i => (subBorrow a b i).toNat, rfl, fun i hi => ?_,
    toNat_sub_eq_emod a b, exec_sub a b s⟩
  have hlimb : limb (a - b) i = subLimb a b i := by rw [← fromLimbs_subLimb, limb_fromLimbs _ i hi]
  exact ⟨toNat_subBorrow_succ a b i, hlimb ▸ toNat_subLimb a b i⟩

/-- A limb of the complement is the complement of the limb (R123). -/
theorem limb_not (a : Word) {i : Nat} (hi : i < 8) : limb (~~~a) i = ~~~ limb a i := by
  apply BitVec.eq_of_getLsbD_eq
  intro j hj
  have hinWord : 32 * i + j < 256 := by omega
  simp only [getLsbD_limb, BitVec.getLsbD_not, hj, hinWord, decide_true, Bool.true_and]

/-- NOT limb by limb is the complement of the value (R123). -/
theorem fromLimbs_not_limb (a : Word) : fromLimbs (fun i => ~~~ limb a i) = ~~~a :=
  fromLimbs_eq_of_limbs fun _ hi => (limb_not a hi).symm

/-- What NOT answers (R123). -/
theorem exec_not (a : Word) (s : State) : exec (.not a) s = .next { s with r := ~~~a, flag := 0, err := 0 } := by
  rw [← fromLimbs_not_limb]
  exact answerValue_eq _ s

/-- Settles O18: both readings of a value are congruent to it modulo 2^256, and -b is ~b + 1. -/
theorem subIsDifferenceModulo : Obligations.SubIsDifferenceModulo := by
  intro a b s
  have hunsigned : BitVec.ofNat 256 (((a.toNat : Int) - b.toNat) % 2 ^ 256).toNat = a - b := by
    rw [← toNat_sub_eq_emod, Int.toNat_natCast, BitVec.ofNat_toNat, BitVec.setWidth_eq]
  have hsigned : BitVec.ofInt 256 (a.toInt - b.toInt) = a - b := by
    rw [Int.sub_eq_add_neg, BitVec.ofInt_add, BitVec.ofInt_neg, BitVec.ofInt_toInt, BitVec.ofInt_toInt,
      BitVec.sub_eq_add_neg]
  rw [hunsigned, hsigned]
  have hnegated : a - b = a + (~~~b + 1) := by
    rw [BitVec.sub_eq_add_neg, BitVec.neg_eq_not_add]
    rfl
  refine ⟨exec_sub a b s, exec_sub a b s, ~~~b, ~~~b + 1, exec_not b s, exec_add (~~~b) 1 s, ?_⟩
  rw [exec_sub, exec_add, hnegated]

/-- Different differences are different answers. -/
theorem exec_sub_ne {a b a' b' : Word} (h : a - b ≠ a' - b') (s : State) : exec (.sub a b) s ≠ exec (.sub a' b') s := by
  rw [exec_sub, exec_sub]
  intro heq
  exact h (congrArg State.r (Host.Outcome.next.inj heq))

/-- Settles O20: identities of subtraction modulo 2^256, the borrow cases evaluated, and 0 and 1 as the values at which
exchanging the operands, or bracketing to the right, changes the answer. -/
theorem subCornerCases : Obligations.SubCornerCases := by
  intro s
  have hneg (x : Word) : 0 - x = BitVec.ofInt 256 (-x.toInt) := by
    rw [BitVec.ofInt_neg, BitVec.ofInt_toInt]
    exact BitVec.zero_sub x
  exact ⟨fun x => ⟨exec_sub_of_eq (BitVec.sub_self x) s, exec_sub_of_eq (BitVec.sub_zero x) s,
      exec_sub_of_eq (hneg x) s⟩,
    exec_sub_of_eq (by decide) s, exec_sub_of_eq (by decide) s, exec_sub_of_eq (by decide) s,
    fun x y => ⟨x + y, exec_add x y s, exec_sub_of_eq (BitVec.add_sub_cancel x y) s⟩,
    ⟨0, 1, exec_sub_ne (by decide) s⟩,
    ⟨0, 0, 1, 0 - 0, 0 - 1, exec_sub 0 0 s, exec_sub 0 1 s, exec_sub_ne (by decide) s⟩⟩

/-! ### The two-step tests (R102, R106) -/

/-- A sum of two limbs is below its first addend exactly where it wraps. -/
theorem toNat_add_lt_left_iff (x y : Limb) : (x + y).toNat < x.toNat ↔ 2 ^ 32 ≤ x.toNat + y.toNat := by
  have := x.isLt
  have := y.isLt
  rw [BitVec.toNat_add]
  omega

/-- A sum of two limbs is below its second addend exactly where it wraps. -/
theorem toNat_add_lt_right_iff (x y : Limb) : (x + y).toNat < y.toNat ↔ 2 ^ 32 ≤ x.toNat + y.toNat := by
  rw [BitVec.add_comm, toNat_add_lt_left_iff, Nat.add_comm]

/-- A difference of two limbs is above its minuend exactly where it wraps. -/
theorem lt_toNat_sub_iff (x y : Limb) : x.toNat < (x - y).toNat ↔ x.toNat < y.toNat := by
  have := x.isLt
  have := y.isLt
  rw [BitVec.toNat_sub]
  omega

/-- A carry or borrow bit keeps its number when it is widened to a limb. -/
theorem toNat_setWidth_bit (c : BitVec 1) : (c.setWidth 32).toNat = c.toNat :=
  BitVec.toNat_setWidth_of_le (by decide)

section

variable (x y : Limb) (c : BitVec 1)

/-- The two parts of the carry test are never both 1: a sum that wrapped is at most 2^32 - 2 (R102). -/
theorem twoStepAdd_parts_exclusive :
    ¬((x + y).toNat < x.toNat ∧ (x + y + c.setWidth 32).toNat < (x + y).toNat) := by
  have := x.isLt
  have := y.isLt
  have := c.isLt
  rw [toNat_add_lt_left_iff, toNat_add_lt_left_iff, toNat_setWidth_bit, BitVec.toNat_add]
  omega

/-- One of the two parts is 1 exactly where the sum with the carry reaches 2^32 (R102). -/
theorem twoStepAdd_parts_iff :
    (x + y).toNat < x.toNat ∨ (x + y + c.setWidth 32).toNat < (x + y).toNat ↔
      2 ^ 32 ≤ x.toNat + y.toNat + c.toNat := by
  have := x.isLt
  have := y.isLt
  have := c.isLt
  rw [toNat_add_lt_left_iff, toNat_add_lt_left_iff, toNat_setWidth_bit, BitVec.toNat_add]
  omega

theorem twoStepAdd_fst : (twoStepAdd x y c).1 = x + y + c.setWidth 32 := rfl

theorem twoStepAdd_snd :
    (twoStepAdd x y c).2 = BitVec.ofBool (decide (2 ^ 32 ≤ x.toNat + y.toNat + c.toNat)) := by
  simp only [twoStepAdd, ← Bool.decide_or, twoStepAdd_parts_iff]

/-- The two-step sum and carry are the remainder and the quotient by 2^32 (R102). -/
theorem twoStepAdd_eq :
    twoStepAdd x y c = (BitVec.ofNat 32 ((x.toNat + y.toNat + c.toNat) % 2 ^ 32),
      BitVec.ofNat 1 ((x.toNat + y.toNat + c.toNat) / 2 ^ 32)) := by
  have := x.isLt
  have := y.isLt
  have := c.isLt
  ext1
  · rw [twoStepAdd_fst]
    apply BitVec.eq_of_toNat_eq
    rw [BitVec.toNat_add, BitVec.toNat_add, toNat_setWidth_bit, BitVec.toNat_ofNat]
    omega
  · rw [twoStepAdd_snd]
    by_cases hcarry : 2 ^ 32 ≤ x.toNat + y.toNat + c.toNat
    · have hquotient : (x.toNat + y.toNat + c.toNat) / 2 ^ 32 = 1 := by omega
      rw [hquotient, decide_eq_true hcarry]
      rfl
    · have hquotient : (x.toNat + y.toNat + c.toNat) / 2 ^ 32 = 0 := by omega
      rw [hquotient, decide_eq_false hcarry]
      rfl

/-- With no carry in, the sum is that of the two limbs, and the carry out says whether it wraps (R102). -/
theorem twoStepAdd_zero :
    twoStepAdd x y 0 = (x + y, BitVec.ofBool (decide (2 ^ 32 ≤ x.toNat + y.toNat))) :=
  Prod.ext (BitVec.add_zero (x + y)) (twoStepAdd_snd x y 0)

end

/-- Settles O15: with no carry in, the sum wraps exactly where it is below either addend; the case that the single test
gets wrong is evaluated. -/
theorem twoStepCarryIsExact : Obligations.TwoStepCarryIsExact := by
  refine ⟨fun x y c => ⟨twoStepAdd_eq x y c, twoStepAdd_parts_exclusive x y c⟩, fun x y => ?_, by decide⟩
  simp only [twoStepAdd_zero, toNat_add_lt_left_iff, toNat_add_lt_right_iff, and_self]

section

variable (x y : Limb) (w : BitVec 1)

/-- The second part of the borrow test is 1 only where a borrow meets a difference of 0 (R106). -/
theorem toNat_lt_bit_iff (u : Limb) : u.toNat < w.toNat ↔ u = 0 ∧ w = 1 := by
  have := w.isLt
  simp only [BitVec.toNat_eq, BitVec.ofNat_eq_ofNat, BitVec.toNat_ofNat]
  omega

/-- The two parts of the borrow test are never both 1: a difference that wrapped is not 0 (R106). -/
theorem twoStepSub_parts_exclusive : ¬(x.toNat < y.toNat ∧ (x - y).toNat < w.toNat) := by
  rintro ⟨hwraps, hzero⟩
  have := (lt_toNat_sub_iff x y).mpr hwraps
  have := w.isLt
  omega

/-- One of the two parts is 1 exactly where the difference with the borrow is negative (R106). -/
theorem twoStepSub_parts_iff :
    x.toNat < y.toNat ∨ (x - y).toNat < w.toNat ↔ (x.toNat : Int) - y.toNat - w.toNat < 0 := by
  have := x.isLt
  have := y.isLt
  have := w.isLt
  rw [BitVec.toNat_sub]
  omega

/-- The limb that the two subtractions leave is the residue of the integer difference (R106). -/
theorem sub_sub_setWidth_eq_ofInt :
    x - y - w.setWidth 32 = BitVec.ofInt 32 ((x.toNat : Int) - y.toNat - w.toNat) := by
  simp only [Int.sub_eq_add_neg, BitVec.ofInt_add, BitVec.ofInt_neg, BitVec.ofInt_natCast, BitVec.ofNat_toNat,
    BitVec.setWidth_eq, BitVec.sub_eq_add_neg]

theorem twoStepSub_fst : (twoStepSub x y w).1 = x - y - w.setWidth 32 := rfl

theorem twoStepSub_snd :
    (twoStepSub x y w).2 = BitVec.ofBool (decide ((x.toNat : Int) - y.toNat - w.toNat < 0)) := by
  simp only [twoStepSub, ← Bool.decide_or, twoStepSub_parts_iff]

/-- The two-step difference and borrow are the residue modulo 2^32 and the sign of the integer difference (R106). -/
theorem twoStepSub_eq :
    twoStepSub x y w = (BitVec.ofInt 32 ((x.toNat : Int) - y.toNat - w.toNat),
      BitVec.ofBool (decide ((x.toNat : Int) - y.toNat - w.toNat < 0))) :=
  Prod.ext (sub_sub_setWidth_eq_ofInt x y w) (twoStepSub_snd x y w)

/-- With no borrow in, the difference is that of the two limbs, and the borrow out says whether it wraps (R106). -/
theorem twoStepSub_zero : twoStepSub x y 0 = (x - y, BitVec.ofBool (decide (x.toNat < y.toNat))) := by
  refine Prod.ext (BitVec.sub_zero (x - y)) ?_
  have hnegative : (x.toNat : Int) - y.toNat - (0 : BitVec 1).toNat < 0 ↔ x.toNat < y.toNat := by
    rw [BitVec.ofNat_eq_ofNat, BitVec.toNat_zero]
    omega
  simp only [twoStepSub_snd, hnegative]

/-- The case that the single test gets wrong: 2^32 is taken away in all, so the limb is unchanged and a borrow goes
out (R106). -/
theorem twoStepSub_allOnes_one : twoStepSub x 0xFFFFFFFF 1 = (x, 1) := by
  have hnegative : (x.toNat : Int) - (0xFFFFFFFF : Limb).toNat - (1 : BitVec 1).toNat < 0 := by
    have := x.isLt
    simp only [BitVec.ofNat_eq_ofNat, BitVec.toNat_ofNat]
    omega
  refine Prod.ext ?_ ?_
  · rw [twoStepSub_fst, BitVec.sub_sub]
    exact BitVec.sub_zero x
  · rw [twoStepSub_snd, decide_eq_true hnegative]
    rfl

end

/-- Settles O19: the two-step test is the sign of the integer difference; with no borrow in, the difference is above its
minuend exactly where it wraps. -/
theorem twoStepBorrowIsExact : Obligations.TwoStepBorrowIsExact := by
  refine ⟨fun x y w => ⟨twoStepSub_eq x y w, (lt_toNat_sub_iff x y).symm, toNat_lt_bit_iff w (x - y),
    twoStepSub_parts_exclusive x y w⟩, fun x y => ?_, twoStepSub_allOnes_one⟩
  simp only [twoStepSub_zero, lt_toNat_sub_iff]

end Sys2Proof.Machine
end

section
/-! Proofs for the bitwise statements (42_bitwise.md): AND, OR, XOR and NOT act on each limb, and on each bit, alone. -/

namespace Sys2Proof.Machine

/-! ### AND, OR and XOR (R120, R121, R122) -/

theorem limb_and (a b : Word) (i : Nat) : limb (a &&& b) i = limb a i &&& limb b i := BitVec.extractLsb'_and ..

theorem limb_or (a b : Word) (i : Nat) : limb (a ||| b) i = limb a i ||| limb b i := BitVec.extractLsb'_or ..

theorem limb_xor (a b : Word) (i : Nat) : limb (a ^^^ b) i = limb a i ^^^ limb b i := BitVec.extractLsb'_xor ..

/-- A limb-wise answer is the answer of the value that has those limbs. -/
theorem answerValue_fromLimbs {f : Nat → Limb} {v : Word} (h : ∀ i < 8, f i = limb v i) (s : State) :
    answerValue (fromLimbs f) s = .next { s with r := v, flag := 0, err := 0 } := by
  rw [fromLimbs_eq_of_limbs h, answerValue_eq]

/-- What AND answers (R120). -/
theorem exec_and (a b : Word) (s : State) : exec (.and a b) s = .next { s with r := a &&& b, flag := 0, err := 0 } :=
  answerValue_fromLimbs (fun i _ => (limb_and a b i).symm) s

/-- What OR answers (R121). -/
theorem exec_or (a b : Word) (s : State) : exec (.or a b) s = .next { s with r := a ||| b, flag := 0, err := 0 } :=
  answerValue_fromLimbs (fun i _ => (limb_or a b i).symm) s

/-- What XOR answers (R122). -/
theorem exec_xor (a b : Word) (s : State) : exec (.xor a b) s = .next { s with r := a ^^^ b, flag := 0, err := 0 } :=
  answerValue_fromLimbs (fun i _ => (limb_xor a b i).symm) s

/-- Settles O21: rows 0x03 to 0x05 of the op code map, and the value whose limbs the operation computes. -/
theorem andOrXorResults : Obligations.AndOrXorResults := fun a b s =>
  ⟨decode_requestWord 0x03 a b, decode_requestWord 0x04 a b, decode_requestWord 0x05 a b,
    exec_and a b s, exec_or a b s, exec_xor a b s, fun i _ => ⟨limb_and a b i, limb_or a b i, limb_xor a b i⟩⟩

/-! ### NOT (R123) -/

theorem toNat_limb_not (a : Word) {i : Nat} (hi : i < 8) : (limb (~~~a) i).toNat = 0xFFFFFFFF - (limb a i).toNat := by
  rw [limb_not a hi, BitVec.toNat_not]

theorem getLsbD_not_word (a : Word) {n : Nat} (hn : n < 256) : (~~~a).getLsbD n = !a.getLsbD n := by
  simp only [BitVec.getLsbD_not, hn, decide_true, Bool.true_and]

/-- One more than the complement is the negation (R123, R105). -/
theorem not_add_one_eq_zero_sub (a : Word) : ~~~a + 1 = 0 - a :=
  (BitVec.neg_eq_not_add a).symm.trans (BitVec.zero_sub a).symm

/-- Settles O22: the answer is `~~~a`, whose bits, limbs and number are the complements of those of `a`. -/
theorem notIsComplement : Obligations.NotIsComplement := by
  intro a b s
  refine ⟨decode_requestWord 0x06 a b, ~~~a, exec_not a s, fun n hn => getLsbD_not_word a hn,
    fun i hi => toNat_limb_not a hi, BitVec.toNat_not, ?_, ?_⟩
  · rw [exec_not, BitVec.not_not]
  · rw [exec_add, exec_sub, not_add_one_eq_zero_sub]

/-! ### No cross-limb interaction (R124) -/

/-- An operation whose value is computed limb by limb by one function of limbs, and bit by bit by one function of bits,
lets nothing cross from one limb, or from one bit, to another. -/
theorem noCrossLimb_of_exec {f : Word → Word → Instr} {g : Word → Word → Word} {onLimbs : Limb → Limb → Limb}
    {onBits : Bool → Bool → Bool}
    (hexec : ∀ a b s, exec (f a b) s = .next { s with r := g a b, flag := 0, err := 0 })
    (hlimb : ∀ a b, ∀ i < 8, limb (g a b) i = onLimbs (limb a i) (limb b i))
    (hbit : ∀ a b, ∀ n < 256, (g a b).getLsbD n = onBits (a.getLsbD n) (b.getLsbD n)) (a a' b b' : Word) (s : State) :
    ∃ r r' : Word, exec (f a b) s = .next { s with r := r, flag := 0, err := 0 } ∧
      exec (f a' b') s = .next { s with r := r', flag := 0, err := 0 } ∧
      (∀ i < 8, limb a i = limb a' i → limb b i = limb b' i → limb r i = limb r' i) ∧
      (∀ n < 256, a.getLsbD n = a'.getLsbD n → b.getLsbD n = b'.getLsbD n → r.getLsbD n = r'.getLsbD n) := by
  refine ⟨g a b, g a' b', hexec a b s, hexec a' b' s, fun i hi ha hb => ?_, fun n hn ha hb => ?_⟩
  · rw [hlimb a b i hi, hlimb a' b' i hi, ha, hb]
  · rw [hbit a b n hn, hbit a' b' n hn, ha, hb]

/-- Settles O23: each operation acts limb by limb and bit by bit; NOT is the case whose function ignores its second
operand. -/
theorem bitwiseNoCrossLimb : Obligations.BitwiseNoCrossLimb := by
  constructor
  · rintro f (rfl | rfl | rfl)
    · exact noCrossLimb_of_exec exec_and (fun a b i _ => limb_and a b i) fun _ _ _ _ => BitVec.getLsbD_and
    · exact noCrossLimb_of_exec exec_or (fun a b i _ => limb_or a b i) fun _ _ _ _ => BitVec.getLsbD_or
    · exact noCrossLimb_of_exec exec_xor (fun a b i _ => limb_xor a b i) fun _ _ _ _ => BitVec.getLsbD_xor
  · intro a a' s
    obtain ⟨r, r', hr, hr', hlimbs, hbits⟩ := noCrossLimb_of_exec (f := fun a _ => .not a)
      (onLimbs := fun x _ => ~~~x) (onBits := fun p _ => !p) (fun a _ => exec_not a)
      (fun a _ _ hi => limb_not a hi) (fun a _ _ hn => getLsbD_not_word a hn) a a' 0 0 s
    exact ⟨r, r', hr, hr', fun i hi ha => hlimbs i hi ha rfl, fun n hn ha => hbits n hn ha rfl⟩

end Sys2Proof.Machine
end

section
/-! Proofs for the unsigned comparisons (43_compare_unsigned.md): what a predicate operation answers, equality by limbs,
and the limb scan as the comparison of the unsigned values. -/

namespace Sys2Proof.Machine

/-! ### The result form (R148) -/

/-- A predicate operation drives one truth value, the same from every state: the other two answers of `exec_cases` are
those of value operations. -/
theorem exec_of_isPredicate {i : Instr} (h : i.isPredicate = true) (s : State) :
    ∃ p, exec i s = answerPredicate p s := by
  rcases exec_cases i s with ⟨hvalue, _⟩ | ⟨_, p, hexec⟩ | ⟨a, b, rfl, _⟩
  · rw [h] at hvalue
    contradiction
  · exact ⟨p, hexec s⟩
  · contradiction

/-- Settles O24: the word whose limb 0 is the truth value, the others 0, is its zero extension. -/
theorem predicateResultForm : Obligations.PredicateResultForm := by
  intro i s h
  obtain ⟨p, hexec⟩ := exec_of_isPredicate h s
  refine ⟨p, ?_⟩
  rw [hexec, answerPredicate_eq, ← zextBit_eq]
  rfl

/-! ### Equality (R140, R141) -/

/-- Equality of values is equality of their limbs (R140). -/
theorem eq_iff_limbs_eq {v w : Word} : v = w ↔ ∀ i < 8, limb v i = limb w i :=
  ⟨fun h _ _ => h ▸ rfl, eq_of_limbs_eq⟩

theorem allLimbsEqual_eq_decide (x y : Word) : allLimbsEqual x y = decide (x = y) := by
  rw [Bool.eq_iff_iff, decide_eq_true_iff, eq_iff_limbs_eq]
  simp only [allLimbsEqual, List.all_eq_true, List.mem_range, beq_iff_eq]

/-- What EQ answers (R140). -/
theorem exec_eq (a b : Word) (s : State) : exec (.eq a b) s = answerPredicate (decide (a = b)) s :=
  congrArg (answerPredicate · s) (allLimbsEqual_eq_decide a b)

/-- What NE answers (R141). -/
theorem exec_ne (a b : Word) (s : State) : exec (.ne a b) s = answerPredicate (decide (a ≠ b)) s := by
  rw [decide_not, ← allLimbsEqual_eq_decide]
  rfl

/-- Settles O25: rows 0x08 and 0x09 of the op code map, and equality as what the two answer. -/
theorem equalityResults : Obligations.EqualityResults := fun a b s =>
  ⟨decode_requestWord 0x08 a b, decode_requestWord 0x09 a b, (exec_eq a b s).trans (answerPredicate_eq _ s),
    (exec_ne a b s).trans (answerPredicate_eq _ s), eq_iff_limbs_eq⟩

/-! ### The limb scan (R142) -/

section

variable {x y : Word} {n : Nat}

/-- The scan is not decided at a limb where the operands agree. -/
theorem scanLimbs_succ_of_eq (h : limb x n = limb y n) : scanLimbs x y (n + 1) = scanLimbs x y n :=
  if_neg (not_not.mpr h)

/-- The scan is decided at a limb where the operands differ. -/
theorem scanLimbs_succ_of_ne (h : limb x n ≠ limb y n) :
    scanLimbs x y (n + 1) = if (limb x n).toNat < (limb y n).toNat then .lt else .gt :=
  if_pos h

/-- The scan passes over limbs that agree down to the first that differs (R142). -/
theorem scanLimbs_of_first_ne {i : Nat} (hi : i < n) (hne : limb x i ≠ limb y i)
    (habove : ∀ j < n, i < j → limb x j = limb y j) :
    scanLimbs x y n = if (limb x i).toNat < (limb y i).toNat then .lt else .gt := by
  induction n with
  | zero => exact absurd hi i.not_lt_zero
  | succ n ih =>
    obtain rfl | hlt := Nat.eq_or_lt_of_le (Nat.le_of_lt_succ hi)
    · exact scanLimbs_succ_of_ne hne
    · rw [scanLimbs_succ_of_eq (habove n n.lt_succ_self hlt)]
      exact ih hlt fun j hj => habove j (Nat.lt_succ_of_lt hj)

/-- Of two numbers in a base the one with the smaller leading digit is smaller, whatever the rest `r` and `r'`. -/
theorem add_mul_lt_add_mul {r l l' base : Nat} (hr : r < base) (hl : l < l') (r' : Nat) :
    r + l * base < r' + l' * base :=
  calc r + l * base < (l + 1) * base := by rw [Nat.succ_mul, Nat.add_comm]; exact Nat.add_lt_add_left hr _
    _ ≤ l' * base := Nat.mul_le_mul_right base hl
    _ ≤ r' + l' * base := Nat.le_add_left ..

/-- The scan of the low n limbs compares the numbers that they spell. -/
theorem scanLimbs_eq_compare (x y : Word) (n : Nat) :
    scanLimbs x y n = compare (x.toNat % 2 ^ (32 * n)) (y.toNat % 2 ^ (32 * n)) := by
  induction n with
  | zero => simp [scanLimbs, Nat.mod_one]
  | succ n ih =>
    rw [mod_succ_limb, mod_succ_limb]
    have hx := Nat.mod_lt x.toNat (Nat.two_pow_pos (32 * n))
    have hy := Nat.mod_lt y.toNat (Nat.two_pow_pos (32 * n))
    rcases Nat.lt_trichotomy (limb x n).toNat (limb y n).toNat with hlt | heq | hgt
    · rw [scanLimbs_succ_of_ne fun h => hlt.ne (congrArg _ h), if_pos hlt, eq_comm, Nat.compare_eq_lt]
      exact add_mul_lt_add_mul hx hlt _
    · rw [scanLimbs_succ_of_eq (BitVec.eq_of_toNat_eq heq), ih, heq]
      simp only [Nat.compare_eq_ite_lt, Nat.add_lt_add_iff_right]
    · rw [scanLimbs_succ_of_ne fun h => hgt.ne' (congrArg _ h), if_neg hgt.not_gt, eq_comm, Nat.compare_eq_gt]
      exact add_mul_lt_add_mul hy hgt _

end

/-- The scan compares the unsigned values (R142). -/
theorem ucmp_eq_compare (x y : Word) : ucmp x y = compare x.toNat y.toNat := by
  rw [ucmp, scanLimbs_eq_compare, mod_all_limbs, mod_all_limbs]

theorem ucmp_eq_lt_iff (x y : Word) : ucmp x y = .lt ↔ x.toNat < y.toNat := by
  rw [ucmp_eq_compare, Nat.compare_eq_lt]

theorem ucmp_eq_eq_iff (x y : Word) : ucmp x y = .eq ↔ x = y := by
  rw [ucmp_eq_compare, Nat.compare_eq_eq, BitVec.toNat_eq]

theorem ucmp_eq_gt_iff (x y : Word) : ucmp x y = .gt ↔ y.toNat < x.toNat := by
  rw [ucmp_eq_compare, Nat.compare_eq_gt]

/-- Settles O26: the scan over limbs 7 to 0, and the comparison of the numbers that they spell. -/
theorem limbScanIsUnsignedOrder : Obligations.LimbScanIsUnsignedOrder := fun x y =>
  ⟨fun _ hi hne habove => scanLimbs_of_first_ne hi hne habove,
    fun h => (ucmp_eq_eq_iff x y).mpr (eq_of_limbs_eq h),
    ucmp_eq_lt_iff x y, ucmp_eq_eq_iff x y, ucmp_eq_gt_iff x y⟩

/-! ### The orders (R143 to R147) -/

theorem ucmp_beq_lt (x y : Word) : (ucmp x y == .lt) = decide (x.toNat < y.toNat) := by
  rw [Bool.eq_iff_iff, beq_iff_eq, ucmp_eq_lt_iff, decide_eq_true_iff]

theorem ucmp_beq_gt (x y : Word) : (ucmp x y == .gt) = decide (x.toNat > y.toNat) := by
  rw [Bool.eq_iff_iff, beq_iff_eq, ucmp_eq_gt_iff, decide_eq_true_iff]

section

variable (a b : Word) (s : State)

/-- What ULT answers (R143). -/
theorem exec_ult : exec (.ult a b) s = answerPredicate (decide (a.toNat < b.toNat)) s :=
  congrArg (answerPredicate · s) (ucmp_beq_lt a b)

/-- What UGT answers (R144). -/
theorem exec_ugt : exec (.ugt a b) s = answerPredicate (decide (a.toNat > b.toNat)) s :=
  congrArg (answerPredicate · s) (ucmp_beq_gt a b)

/-- What ULE answers (R145): not greater is less or equal. -/
theorem exec_ule : exec (.ule a b) s = answerPredicate (decide (a.toNat ≤ b.toNat)) s := by
  simp only [← Nat.not_lt, decide_not, ← gt_iff_lt, ← ucmp_beq_gt]
  rfl

/-- What UGE answers (R146): not less is greater or equal. -/
theorem exec_uge : exec (.uge a b) s = answerPredicate (decide (a.toNat ≥ b.toNat)) s := by
  simp only [ge_iff_le, ← Nat.not_lt, decide_not, ← ucmp_beq_lt]
  rfl

end

/-- Settles O27: rows 0x0A to 0x0D of the op code map, and the four orders as what they answer. -/
theorem unsignedOrderResults : Obligations.UnsignedOrderResults := fun a b s =>
  ⟨decode_requestWord 0x0A a b, decode_requestWord 0x0B a b, decode_requestWord 0x0C a b, decode_requestWord 0x0D a b,
    (exec_ult a b s).trans (answerPredicate_eq _ s), (exec_ugt a b s).trans (answerPredicate_eq _ s),
    (exec_ule a b s).trans (answerPredicate_eq _ s), (exec_uge a b s).trans (answerPredicate_eq _ s)⟩

/-- A predicate's result is its flag bit, widened (R148). -/
theorem answerPredicate_eq_setWidth (p : Bool) (s : State) :
    answerPredicate p s = .next { s with r := (BitVec.ofBool p).setWidth 256, flag := BitVec.ofBool p, err := 0 } := by
  rw [← zextBit_eq_setWidth_ofBool]
  rfl

/-- Exactly one of greater, less and equal is true (R147). -/
theorem unsigned_trichotomy (a b : Word) :
    (decide (a.toNat > b.toNat)).toNat + (decide (a.toNat < b.toNat)).toNat + (decide (a = b)).toNat = 1 := by
  simp only [BitVec.toNat_eq]
  rcases Nat.lt_trichotomy a.toNat b.toNat with h | h | h
  · simp [h, h.ne, h.not_gt]
  · simp [h]
  · simp [h, h.ne', h.not_gt]

/-- Settles O28: the three bits are the truth values of greater, less and equal. -/
theorem unsignedTotalOrder : Obligations.UnsignedTotalOrder := fun a b s =>
  ⟨_, _, _, (exec_ugt a b s).trans (answerPredicate_eq_setWidth _ s),
    (exec_ult a b s).trans (answerPredicate_eq_setWidth _ s),
    (exec_eq a b s).trans (answerPredicate_eq_setWidth _ s),
    by simpa only [BitVec.toNat_ofBool] using unsigned_trichotomy a b⟩

end Sys2Proof.Machine
end

section
/-! Proofs for the signed comparisons (44_compare_signed.md): the sign test before the limb scan as the comparison of
the signed readings. -/

namespace Sys2Proof.Machine

/-! ### The sign test and the limb scan (R160) -/

section

variable {x y : Word}

/-- Of operands with differing signs the negative one is less (R160). -/
theorem scmp_of_neg_nonneg (hx : signBit x = true) (hy : signBit y = false) : scmp x y = .lt := by
  simp only [scmp, hx, hy, ne_eq, Bool.true_eq_false, not_false_eq_true, if_true]

/-- Of operands with differing signs the non-negative one is greater (R160). -/
theorem scmp_of_nonneg_neg (hx : signBit x = false) (hy : signBit y = true) : scmp x y = .gt := by
  simp only [scmp, hx, hy, ne_eq, Bool.false_eq_true, not_false_eq_true, if_true, if_false]

/-- Equal signs leave the comparison to the unsigned scan (R160). -/
theorem scmp_of_signBit_eq (h : signBit x = signBit y) : scmp x y = ucmp x y :=
  if_neg (not_not.mpr h)

/-- A negative signed reading is below every non-negative one. -/
theorem toInt_lt_toInt_of_signBit (hx : signBit x = true) (hy : signBit y = false) : x.toInt < y.toInt := by
  have hneg : x.toInt < 0 := by rwa [signBit_eq_msb, BitVec.msb_eq_toInt, decide_eq_true_iff] at hx
  have hnonneg : 0 ≤ y.toInt := by rwa [signBit_eq_msb, BitVec.msb_eq_toInt, decide_eq_false_iff_not, not_lt] at hy
  exact hneg.trans_le hnonneg

/-- Between operands of one sign the signed readings are ordered as the unsigned values, from which both differ by the
same amount. -/
theorem cmp_toInt_of_signBit_eq (h : signBit x = signBit y) : cmp x.toInt y.toInt = cmp x.toNat y.toNat := by
  rw [toInt_eq_toNat_sub_signBit, toInt_eq_toNat_sub_signBit, h, sub_eq_add_neg, sub_eq_add_neg, cmp_add_right]
  exact Nat.strictMono_cast.cmp_map_eq ..

end

/-- `scmp` compares the signed readings (R160). -/
theorem scmp_compares (x y : Word) : (scmp x y).Compares x.toInt y.toInt := by
  cases hx : signBit x <;> cases hy : signBit y
  case true.false =>
    rw [scmp_of_neg_nonneg hx hy]
    exact toInt_lt_toInt_of_signBit hx hy
  case false.true =>
    rw [scmp_of_nonneg_neg hx hy]
    exact toInt_lt_toInt_of_signBit hy hx
  all_goals
    have hsign : signBit x = signBit y := hx.trans hy.symm
    rw [scmp_of_signBit_eq hsign, ucmp_eq_compare, ← cmp_eq_compare, ← cmp_toInt_of_signBit_eq hsign]
    exact cmp_compares x.toInt y.toInt

theorem scmp_eq_eq_iff (x y : Word) : scmp x y = .eq ↔ x = y := by
  rw [(scmp_compares x y).eq_eq, BitVec.toInt_inj]

/-- Settles O29: the three cases of the sign test, and the comparison of the signed readings. -/
theorem signedScanIsSignedOrder : Obligations.SignedScanIsSignedOrder := by
  intro x y
  simp only [← signBit_eq]
  exact ⟨scmp_of_neg_nonneg, scmp_of_nonneg_neg, scmp_of_signBit_eq, (scmp_compares x y).eq_lt, scmp_eq_eq_iff x y,
    (scmp_compares x y).eq_gt⟩

/-! ### The orders (R161 to R163) -/

section

variable (a b : Word) (s : State)

theorem scmp_beq_lt : (scmp a b == .lt) = decide (a.toInt < b.toInt) := by
  rw [Bool.eq_iff_iff, beq_iff_eq, (scmp_compares a b).eq_lt, decide_eq_true_iff]

theorem scmp_beq_gt : (scmp a b == .gt) = decide (a.toInt > b.toInt) := by
  rw [Bool.eq_iff_iff, beq_iff_eq, (scmp_compares a b).eq_gt, decide_eq_true_iff]

/-- What SLT answers (R161). -/
theorem exec_slt : exec (.slt a b) s = answerPredicate (decide (a.toInt < b.toInt)) s :=
  congrArg (answerPredicate · s) (scmp_beq_lt a b)

/-- What SGT answers (R162). -/
theorem exec_sgt : exec (.sgt a b) s = answerPredicate (decide (a.toInt > b.toInt)) s :=
  congrArg (answerPredicate · s) (scmp_beq_gt a b)

end

/-- Settles O30: rows 0x0E and 0x0F of the op code map, and the two orders as what they answer. -/
theorem signedOrderResults : Obligations.SignedOrderResults := fun a b s =>
  ⟨decode_requestWord 0x0E a b, decode_requestWord 0x0F a b,
    (exec_slt a b s).trans (answerPredicate_eq _ s), (exec_sgt a b s).trans (answerPredicate_eq _ s)⟩

/-- No value is less than itself, so SLT on equal operands answers 0 (R163). -/
theorem exec_slt_self (a : Word) (s : State) :
    exec (.slt a a) s = .next { s with r := 0, flag := 0, err := 0 } := by
  rw [exec_slt, decide_eq_false (lt_irrefl _)]
  rfl

/-- ISZERO of a predicate's result is its negation (R163, R170). -/
theorem exec_isZero_setWidth (p : Bool) (s : State) :
    exec (.isZero ((BitVec.ofBool p).setWidth 256)) s = answerPredicate (!p) s := by
  cases p <;> rfl

/-- Exactly one of less, greater and equal is true (R163): they are the three outcomes of `scmp`. -/
theorem signed_trichotomy (a b : Word) :
    (decide (a.toInt < b.toInt)).toNat + (decide (a.toInt > b.toInt)).toNat + (decide (a = b)).toNat = 1 := by
  have hbeq : (scmp a b == .eq) = decide (a = b) := by
    rw [Bool.eq_iff_iff, beq_iff_eq, scmp_eq_eq_iff, decide_eq_true_iff]
  rw [← scmp_beq_lt, ← scmp_beq_gt, ← hbeq]
  cases scmp a b <;> rfl

/-- ISZERO of a strict signed order is the opposite order, equality included (R163). -/
theorem exec_isZero_of_toInt_lt (a b : Word) (s : State) :
    exec (.isZero ((BitVec.ofBool (decide (a.toInt < b.toInt))).setWidth 256)) s =
      answerPredicate (decide (b.toInt ≤ a.toInt)) s := by
  rw [exec_isZero_setWidth, ← decide_not]
  simp only [not_lt]

/-- Settles O31: SGT a,b is SLT b,a, the three bits are the truth values of less, greater and equal, and ISZERO negates
the first two. -/
theorem signedRelations : Obligations.SignedRelations := fun a b s =>
  ⟨(exec_slt a b s).trans (exec_sgt b a s).symm, exec_slt_self a s,
    ((exec_sgt a a s).trans (exec_slt a a s).symm).trans (exec_slt_self a s), _, _, _,
    (exec_slt a b s).trans (answerPredicate_eq_setWidth _ s),
    (exec_sgt a b s).trans (answerPredicate_eq_setWidth _ s),
    (exec_eq a b s).trans (answerPredicate_eq_setWidth _ s),
    by simpa only [BitVec.toNat_ofBool] using signed_trichotomy a b,
    (exec_isZero_of_toInt_lt b a s).trans (answerPredicate_eq _ s),
    (exec_isZero_of_toInt_lt a b s).trans (answerPredicate_eq _ s)⟩

end Sys2Proof.Machine
end

section
/-! Proofs for the zero test statements (45_zero_test.md): ISZERO as equality with 0, its result form, and ISZERO of a
predicate's result. -/

namespace Sys2Proof.Machine

/-! ### The limbs of zero (R170) -/

theorem limb_zero (i : Nat) : limb 0 i = 0 := BitVec.extractLsb'_zero

/-- A value is 0 where every limb is 0 (R170). -/
theorem eq_zero_iff_limbs_eq_zero {v : Word} : v = 0 ↔ ∀ i < 8, limb v i = 0 := by
  simpa only [limb_zero] using eq_iff_limbs_eq (v := v) (w := 0)

/-- Testing every limb for 0 is comparing every limb with that of 0. -/
theorem allLimbsZero_eq_allLimbsEqual_zero (x : Word) : allLimbsZero x = allLimbsEqual x 0 := by
  simp only [allLimbsZero, allLimbsEqual, limb_zero]

/-! ### ISZERO as equality with zero (R171) -/

/-- ISZERO answers what EQ with 0 answers (R171). -/
theorem exec_isZero_eq_exec_eq_zero (a : Word) (s : State) : exec (.isZero a) s = exec (.eq a 0) s :=
  congrArg (answerPredicate · s) (allLimbsZero_eq_allLimbsEqual_zero a)

/-- What ISZERO answers (R170). -/
theorem exec_isZero (a : Word) (s : State) : exec (.isZero a) s = answerPredicate (decide (a = 0)) s :=
  (exec_isZero_eq_exec_eq_zero a s).trans (exec_eq a 0 s)

/-- ISZERO of the number 0 or 1 of a truth value is its negation (R170). -/
theorem exec_isZero_ofNat_toNat (p : Bool) (s : State) :
    exec (.isZero (BitVec.ofNat 256 p.toNat)) s = answerPredicate (!p) s := by
  rw [← zextBit_eq, zextBit_eq_setWidth_ofBool, exec_isZero_setWidth]

/-- Settles O32: row 0x07 of the op code map, equality with 0 as what ISZERO answers, and its negation as what the
second ISZERO answers. -/
theorem zeroTestResults : Obligations.ZeroTestResults := by
  intro a b s
  have htwice : exec (.isZero (BitVec.ofNat 256 (decide (a = 0)).toNat)) s = answerPredicate (decide (a ≠ 0)) s := by
    rw [exec_isZero_ofNat_toNat, ← decide_not]
  exact ⟨decode_requestWord 0x07 a b, (exec_isZero a s).trans (answerPredicate_eq _ s), eq_zero_iff_limbs_eq_zero,
    htwice.trans (answerPredicate_eq _ s)⟩

/-- Eight zero limbs make the value 0. -/
theorem construct_zero : construct 0 0 0 0 0 0 0 0 = 0 := rfl

/-- Settles O33: the value of eight zero limbs is 0, and both operations drive the truth value of equality with it. -/
theorem zeroTestIsEqualityWithZero : Obligations.ZeroTestIsEqualityWithZero := by
  intro a s
  have hisZero := (exec_isZero a s).trans (answerPredicate_eq_setWidth _ s)
  rw [construct_zero, ← exec_isZero_eq_exec_eq_zero]
  exact ⟨_, hisZero, hisZero⟩

end Sys2Proof.Machine
end

section
/-! Proofs for the byte extraction statements (46_byte.md): what BYTE answers, its selection of a limb and of the bits
in it, and BYTE's numbering against SEXT's. -/

namespace Sys2Proof.Machine

/-! ### The byte that shift and mask take (R180, R181) -/

/-- Shifting the byte down to bit 0 and masking its 8 bits leaves that byte alone (R180). -/
theorem zextLimb_shift_mask (l : Limb) (sh : Nat) :
    zextLimb ((l >>> sh) &&& 0xFF) = (l.extractLsb' sh 8).setWidth 256 := by
  apply BitVec.eq_of_toNat_eq
  have hmask (n : Nat) : n &&& (0xFF : Limb).toNat = n % 2 ^ 8 := Nat.and_two_pow_sub_one_eq_mod n 8
  simp only [zextLimb, BitVec.toNat_setWidth, BitVec.toNat_and, BitVec.toNat_ushiftRight, hmask,
    BitVec.extractLsb'_toNat]

/-- A byte of a value as a number. -/
theorem setWidth_extractLsb'_byte {w : Nat} (v : BitVec w) (start : Nat) :
    (v.extractLsb' start 8).setWidth 256 = BitVec.ofNat 256 (v.toNat / 2 ^ start % 256) := by
  apply BitVec.eq_of_toNat_eq
  simp only [BitVec.toNat_setWidth, BitVec.extractLsb'_toNat, BitVec.toNat_ofNat, Nat.shiftRight_eq_div_pow]

/-- Below 32 the limb select, shift and mask take the byte that the index counts from the most significant (R180). -/
theorem extractByte_of_lt (x : Word) {index : Word} (h : index.toNat < 32) :
    extractByte x index = (byteBe x index.toNat).setWidth 256 := by
  have hshift : 8 * (3 - index.toNat % 4) = 24 - 8 * (index.toNat % 4) := by omega
  rw [byteBe_eq_extractLsb'_limb x h, ← hshift, ← zextLimb_shift_mask]
  exact if_neg h.not_ge

/-- An index or a position below 32 is its own number as an operand. -/
theorem toNat_ofNat_of_lt_32 {n : Nat} (h : n < 32) : (BitVec.ofNat 256 n).toNat = n :=
  Nat.mod_eq_of_lt (h.trans (by decide))

/-! ### What BYTE answers (R180, R181, R182) -/

/-- BYTE at an index below 32 answers the byte counted from the most significant (R180). -/
theorem exec_byte_of_lt (a : Word) {b : Word} (h : b.toNat < 32) (s : State) :
    exec (.byte a b) s = .next { s with r := (byteBe a b.toNat).setWidth 256, flag := 0, err := 0 } :=
  congrArg (answerValue · s) (extractByte_of_lt a h)

/-- BYTE at an index that is written as a number below 32. -/
theorem exec_byte_ofNat (a : Word) {n : Nat} (h : n < 32) (s : State) :
    exec (.byte a (BitVec.ofNat 256 n)) s = .next { s with r := (byteBe a n).setWidth 256, flag := 0, err := 0 } := by
  have hn : (BitVec.ofNat 256 n).toNat = n := toNat_ofNat_of_lt_32 h
  rw [exec_byte_of_lt a (hn.trans_lt h), hn]

/-- Settles O36: the test of the whole operand comes before any limb is selected. -/
theorem byteIndexOutOfRange : Obligations.ByteIndexOutOfRange := fun _ _ s h =>
  congrArg (answerValue · s) (if_pos h)

/-- Settles O34: below 32 both forms are the byte that BYTE answers, as a number read off the whole value and off its
limb; from 32 on the answer is that of O36. -/
theorem byteResults : Obligations.ByteResults := by
  intro a b s
  refine ⟨decode_requestWord 0x10 a b, ?_, fun h => ?_⟩
  · by_cases h : b.toNat < 32
    · rw [exec_byte_of_lt a h, if_pos h, byteBe_eq_extractLsb' a h, setWidth_extractLsb'_byte]
    · rw [byteIndexOutOfRange a b s (Nat.le_of_not_lt h), if_neg h]
  · have hshift : 24 - 8 * (b.toNat % 4) = 8 * (3 - b.toNat % 4) := by omega
    rw [exec_byte_of_lt a h, byteBe_eq_extractLsb'_limb a h, setWidth_extractLsb'_byte, hshift]

/-- Settles O35: the index is in range, and dividing it by 4 gives back the limb and the quarter. -/
theorem byteSelectionTable : Obligations.ByteSelectionTable := by
  intro a s j q hj hq
  have hindex : 28 - 4 * j + q < 32 := by omega
  have hlimb : 7 - (28 - 4 * j + q) / 4 = j := by omega
  have hquarter : (28 - 4 * j + q) % 4 = q := by omega
  rw [exec_byte_ofNat a hindex, byteBe_eq_extractLsb'_limb a hindex, hlimb, hquarter]

/-! ### BYTE's numbering and SEXT's (R184, R190) -/

/-- Every bit above position p is bit p (R11). -/
theorem getLsbD_sextFrom_of_lt (v : Word) {p n : Nat} (hp : p < n) (hn : n < 256) :
    (sextFrom v p).getLsbD n = v.getLsbD p := by
  have hout : ¬n < p + 1 := by omega
  simp only [sextFrom, BitVec.getLsbD_signExtend, hn, hout, decide_true, Bool.true_and, if_false,
    BitVec.msb_eq_getLsbD_last, BitVec.getLsbD_setWidth, Nat.add_sub_cancel, Nat.lt_add_one]

/-- A bit of the fill byte is the sign it fills with. -/
theorem getLsbD_fillByte (sign : Bool) {i : Nat} (hi : i < 8) :
    (if sign then (0xFF : Byte) else 0x00).getLsbD i = sign := by
  cases sign
  · exact BitVec.getLsbD_zero
  · exact (BitVec.getLsbD_allOnes (v := 8)).trans (decide_eq_true hi)

/-- Every byte above position k is filled with bit 7 of byte k (R184, R190). -/
theorem byteLe_sextFrom_of_lt (v : Word) {k m : Nat} (hk : k < m) (hm : m < 32) :
    byteLe (sextFrom v (8 * k + 7)) m = if (byteLe v k).getLsbD 7 then 0xFF else 0x00 := by
  apply BitVec.eq_of_getLsbD_eq
  intro i hi
  have hsign : (byteLe v k).getLsbD 7 = v.getLsbD (8 * k + 7) := by
    rw [byteLe, BitVec.getLsbD_extractLsb']; rfl
  rw [getLsbD_fillByte _ hi, hsign, byteLe, BitVec.getLsbD_extractLsb', decide_eq_true hi, Bool.true_and]
  exact getLsbD_sextFrom_of_lt v (by omega) (by omega)

/-- SEXT at a position of S answers the sign extension from bit 7 of the byte there (R190). -/
theorem exec_sext_of_mem (a : Word) {b : Word} (h : b.toNat ∈ Config.sextPositions) (s : State) :
    exec (.sext a b) s = .next { s with r := sextFrom a (8 * b.toNat + 7), flag := 0, err := 0 } :=
  execSext_of_mem ((isSextPosition_iff b).mpr h) s

/-- SEXT at a position of S that is written as a number. -/
theorem exec_sext_ofNat (a : Word) {k : Nat} (h : k ∈ Config.sextPositions) (s : State) :
    exec (.sext a (BitVec.ofNat 256 k)) s = .next { s with r := sextFrom a (8 * k + 7), flag := 0, err := 0 } := by
  have hlt : ∀ n ∈ Config.sextPositions, n < 32 := by decide
  have hk : (BitVec.ofNat 256 k).toNat = k := toNat_ofNat_of_lt_32 (hlt k h)
  rw [exec_sext_of_mem a (by rwa [hk]), hk]

/-- Settles O37: counting twice in opposite directions gives the byte back, and its bit 7 is the bit SEXT extends. -/
theorem byteAndSextCountOppositely : Obligations.ByteAndSextCountOppositely := by
  intro v s k hk
  have hindex : 31 - k < 32 := by omega
  refine ⟨?_, fun hmem => ⟨_, exec_sext_ofNat v hmem s, fun m hm hkm => byteLe_sextFrom_of_lt v hkm hm⟩⟩
  rw [exec_byte_ofNat v hindex, byteLe_eq_byteBe v hk]

end Sys2Proof.Machine
end

section
/-! Proofs for the sign extension statements (47_sign_extend.md): the bits, bytes and limbs of a sign extension, the set
of byte positions, and what SEXT answers. -/

namespace Sys2Proof.Machine

/-! ### The bits of a sign extension (R11, R190) -/

/-- A sign extension repeats bit p at every place above p: bit n of it is the bit of the value at n or p, whichever is
lower (R11). -/
theorem getLsbD_sextFrom (v : Word) (p : Nat) {n : Nat} (hn : n < 256) :
    (sextFrom v p).getLsbD n = v.getLsbD (min n p) := by
  rcases Nat.lt_or_ge p n with hlt | hle
  · rw [getLsbD_sextFrom_of_lt v hlt hn, min_eq_right hlt.le]
  · have hkept : n < p + 1 := by omega
    simp only [sextFrom, BitVec.getLsbD_signExtend, hn, hkept, BitVec.getLsbD_setWidth, decide_true, Bool.true_and,
      if_true, min_eq_left hle]

/-- The bits at or below p are kept (R190). -/
theorem getLsbD_sextFrom_of_le (v : Word) {p n : Nat} (hle : n ≤ p) (hn : n < 256) :
    (sextFrom v p).getLsbD n = v.getLsbD n := by
  rw [getLsbD_sextFrom v p hn, min_eq_left hle]

/-- The bits above p have no effect on the extension (R191). -/
theorem sextFrom_congr {v w : Word} {p : Nat} (h : ∀ n ≤ p, v.getLsbD n = w.getLsbD n) :
    sextFrom v p = sextFrom w p := by
  apply BitVec.eq_of_getLsbD_eq
  intro n hn
  rw [getLsbD_sextFrom v p hn, getLsbD_sextFrom w p hn, h _ (min_le_right n p)]

/-- Extending twice from one bit is extending once (R196). -/
theorem sextFrom_sextFrom (v : Word) (p : Nat) : sextFrom (sextFrom v p) p = sextFrom v p := by
  apply BitVec.eq_of_getLsbD_eq
  intro n hn
  have hmin : min n p < 256 := (min_le_left n p).trans_lt hn
  rw [getLsbD_sextFrom _ p hn, getLsbD_sextFrom_of_le v (min_le_right n p) hmin, getLsbD_sextFrom v p hn]

/-- Extending from bit 255 changes nothing (R190). -/
theorem sextFrom_255 (v : Word) : sextFrom v 255 = v := by
  apply BitVec.eq_of_getLsbD_eq
  intro n hn
  exact getLsbD_sextFrom_of_le v (Nat.le_of_lt_succ hn) hn

/-- Extending 0 gives 0 (R196). -/
theorem sextFrom_zero (p : Nat) : sextFrom 0 p = 0 := by
  apply BitVec.eq_of_getLsbD_eq
  intro n hn
  exact (getLsbD_sextFrom 0 p hn).trans (BitVec.getLsbD_zero.trans BitVec.getLsbD_zero.symm)

/-- Extending all ones gives all ones (R196). -/
theorem sextFrom_allOnes (p : Nat) : sextFrom (BitVec.allOnes 256) p = BitVec.allOnes 256 := by
  apply BitVec.eq_of_getLsbD_eq
  intro n hn
  have hmin : min n p < 256 := (min_le_left n p).trans_lt hn
  rw [getLsbD_sextFrom _ p hn, BitVec.getLsbD_allOnes, BitVec.getLsbD_allOnes, decide_eq_true hmin, decide_eq_true hn]

/-! ### Its bytes, its numbers and its limbs (R191, R192, R193) -/

/-- A bit of a byte is a bit of the value (R9). -/
theorem getLsbD_byteLe (v : Word) (k : Nat) {i : Nat} (hi : i < 8) : (byteLe v k).getLsbD i = v.getLsbD (8 * k + i) := by
  rw [byteLe, BitVec.getLsbD_extractLsb', decide_eq_true hi, Bool.true_and]

/-- The bytes at or below position k are kept (R191). -/
theorem byteLe_sextFrom_of_le (v : Word) {k m : Nat} (hmk : m ≤ k) (hm : m < 32) :
    byteLe (sextFrom v (8 * k + 7)) m = byteLe v m := by
  apply BitVec.eq_of_getLsbD_eq
  intro i hi
  rw [getLsbD_byteLe _ m hi, getLsbD_byteLe _ m hi]
  exact getLsbD_sextFrom_of_le v (by omega) (by omega)

/-- The bytes above position k have no effect on the extension (R191). -/
theorem sextFrom_congr_bytes {v w : Word} {k : Nat} (h : ∀ m ≤ k, byteLe v m = byteLe w m) :
    sextFrom v (8 * k + 7) = sextFrom w (8 * k + 7) := by
  apply sextFrom_congr
  intro n hn
  have hbit (x : Word) : x.getLsbD n = (byteLe x (n / 8)).getLsbD (n % 8) := by
    rw [getLsbD_byteLe x _ (Nat.mod_lt n (by decide)), Nat.div_add_mod]
  rw [hbit v, hbit w, h (n / 8) (by omega)]

/-- The extension as a number: the value below the sign bit and, for a set one, the weights of all bits above (R191). -/
theorem toNat_sextFrom (v : Word) (p : Nat) :
    (sextFrom v p).toNat = v.toNat % 2 ^ (p + 1) + if v.getLsbD p then 2 ^ 256 - 2 ^ (p + 1) else 0 := by
  have hmsb : (v.setWidth (p + 1)).msb = v.getLsbD p := by
    rw [BitVec.msb_eq_getLsbD_last, BitVec.getLsbD_setWidth, Nat.add_sub_cancel, decide_eq_true (Nat.lt_add_one p),
      Bool.true_and]
  have hfits : v.toNat % 2 ^ (p + 1) < 2 ^ 256 := (Nat.mod_le _ _).trans_lt v.isLt
  rw [sextFrom, BitVec.toNat_signExtend, hmsb, BitVec.toNat_setWidth, BitVec.toNat_setWidth, Nat.mod_eq_of_lt hfits]

/-- The extension as a signed number: the low p + 1 bits read as two's complement (R191). -/
theorem toInt_sextFrom (v : Word) {p : Nat} (hp : p < 256) : (sextFrom v p).toInt = (v.setWidth (p + 1)).toInt :=
  BitVec.toInt_signExtend_of_le hp

/-- The limbs that end at or below bit p are kept (R192). -/
theorem limb_sextFrom_of_le (v : Word) {p i : Nat} (hip : 32 * i + 31 ≤ p) (hi : i < 8) :
    limb (sextFrom v p) i = limb v i := by
  apply BitVec.eq_of_getLsbD_eq
  intro j hj
  rw [getLsbD_limb, getLsbD_limb, getLsbD_sextFrom_of_le v (by omega) (by omega)]

/-- A bit of the fill limb is the sign it fills with. -/
theorem getLsbD_fillLimb (sign : Bool) {j : Nat} (hj : j < 32) :
    (if sign then (0xFFFFFFFF : Limb) else 0x00000000).getLsbD j = sign := by
  cases sign
  · exact BitVec.getLsbD_zero
  · exact (BitVec.getLsbD_allOnes (v := 32)).trans (decide_eq_true hj)

/-- The limbs that lie above bit p are the fill (R192, R193). -/
theorem limb_sextFrom_of_lt (v : Word) {p i : Nat} (hpi : p < 32 * i) (hi : i < 8) :
    limb (sextFrom v p) i = if v.getLsbD p then 0xFFFFFFFF else 0x00000000 := by
  apply BitVec.eq_of_getLsbD_eq
  intro j hj
  rw [getLsbD_fillLimb _ hj, getLsbD_limb, decide_eq_true hj, Bool.true_and]
  exact getLsbD_sextFrom_of_lt v (by omega) (by omega)

/-- Limb 0 keeps its bits at or below q and has the fill above (R193). -/
theorem limb_zero_sextFrom (v : Word) (q : Nat) :
    limb (sextFrom v q) 0 = (limb v 0 &&& BitVec.ofNat 32 (2 ^ (q + 1) - 1)) |||
      ((if v.getLsbD q then (0xFFFFFFFF : Limb) else 0x00000000) &&& ~~~BitVec.ofNat 32 (2 ^ (q + 1) - 1)) := by
  apply BitVec.eq_of_getLsbD_eq
  intro j hj
  have hmask : (BitVec.ofNat 32 (2 ^ (q + 1) - 1)).getLsbD j = decide (j < q + 1) := by
    rw [BitVec.getLsbD_ofNat, Nat.testBit_two_pow_sub_one, decide_eq_true hj, Bool.true_and]
  have hlimb (w : Word) : (limb w 0).getLsbD j = w.getLsbD j := by
    rw [getLsbD_limb, decide_eq_true hj, Bool.true_and, Nat.mul_zero, Nat.zero_add]
  rw [BitVec.getLsbD_or, BitVec.getLsbD_and, BitVec.getLsbD_and, BitVec.getLsbD_not, hmask, getLsbD_fillLimb _ hj, hlimb,
    hlimb]
  rcases Nat.lt_or_ge q j with hlt | hle
  · rw [getLsbD_sextFrom_of_lt v hlt (by omega)]
    have hout : ¬j < q + 1 := by omega
    simp [hout, hj]
  · rw [getLsbD_sextFrom_of_le v hle (by omega)]
    simp [Nat.lt_succ_of_le hle]

/-! ### The set S (R195) -/

/-- Every position of S is a byte of the value. -/
theorem lt_32_of_mem_sextPositions {n : Nat} (h : n ∈ Config.sextPositions) : n < 32 := by
  revert n
  decide

/-- The sign bit of a position of S is a bit of the value. -/
theorem signPlace_lt_256 {n : Nat} (h : n ∈ Config.sextPositions) : 8 * n + 7 < 256 := by
  have := lt_32_of_mem_sextPositions h
  omega

/-- S is the byte positions below 32 that end a limb or are the first three of limb 0 (R195). -/
theorem mem_sextPositions_iff (n : Nat) : n ∈ Config.sextPositions ↔ n < 32 ∧ (n % 4 = 3 ∨ n < 3) := by
  constructor
  · revert n
    decide
  · rintro ⟨hlt, hend⟩
    revert n
    decide

/-- A value is the number of its limb 0 exactly where its limbs 1 to 7 are zero. -/
theorem toNat_eq_toNat_limb_zero_iff (v : Word) : v.toNat = (limb v 0).toNat ↔ ∀ i < 8, 1 ≤ i → limb v i = 0 := by
  constructor
  · intro h i hi hpos
    have hsmall : v.toNat < 2 ^ (32 * i) :=
      (h ▸ (limb v 0).isLt).trans_le (Nat.pow_le_pow_right (by decide) (by omega))
    apply BitVec.eq_of_toNat_eq
    rw [toNat_limb, Nat.div_eq_of_lt hsmall]
    rfl
  · intro h
    rw [toNat_eq_sum_limbs v, h 1 (by decide) (by decide), h 2 (by decide) (by decide), h 3 (by decide) (by decide),
      h 4 (by decide) (by decide), h 5 (by decide) (by decide), h 6 (by decide) (by decide), h 7 (by decide) (by decide)]
    simp

/-- A value below 2^32 is its limb 0. -/
theorem toNat_limb_zero_of_lt {v : Word} (h : v.toNat < 2 ^ 32) : (limb v 0).toNat = v.toNat := by
  rw [toNat_limb, Nat.mul_zero, Nat.pow_zero, Nat.div_one, Nat.mod_eq_of_lt h]

/-- Bits 1:0 of a limb are 3 exactly where its number is 3 modulo 4. -/
theorem extractLsb'_two_eq_three_iff (l : Limb) : l.extractLsb' 0 2 = 3 ↔ l.toNat % 4 = 3 := by
  rw [← BitVec.toNat_inj, BitVec.extractLsb'_toNat]
  rfl

/-- Settles O43: a position of S is below 32, so that it is the limb 0 of an operand whose other limbs are zero. -/
theorem sextPositionTest : Obligations.SextPositionTest := by
  refine ⟨rfl, rfl, fun n => ?_, fun b => ?_⟩
  · rw [mem_sextPositions_iff]
    constructor
    · rintro ⟨hlt, hend | hlow⟩
      · exact .inl ⟨n / 4, by omega, by omega⟩
      · exact .inr hlow
    · rintro (⟨j, hj, rfl⟩ | hlow) <;> omega
  · rw [isSextPosition_iff, mem_sextPositions_iff, ← toNat_eq_toNat_limb_zero_iff, extractLsb'_two_eq_three_iff]
    constructor
    · rintro ⟨hlt, hend⟩
      rw [toNat_limb_zero_of_lt (hlt.trans (by decide))]
      exact ⟨rfl, hlt, hend⟩
    · rintro ⟨heq, hlt, hend⟩
      rw [heq]
      exact ⟨hlt, hend⟩

/-! ### What SEXT answers (R190, R194) -/

/-- SEXT outside S takes the error UndefinedBytePosition (R194). -/
theorem exec_sext_of_not_mem (a : Word) {b : Word} (h : b.toNat ∉ Config.sextPositions) (s : State) :
    exec (.sext a b) s = .fault (.undefinedBytePosition b) :=
  execSext_of_not_mem (Bool.eq_false_iff.mpr fun hin => h ((isSextPosition_iff b).mp hin)) s

theorem exec_sext_of_eq {a b r : Word} (hb : b.toNat ∈ Config.sextPositions) (hr : sextFrom a (8 * b.toNat + 7) = r)
    (s : State) : exec (.sext a b) s = .next { s with r := r, flag := 0, err := 0 } := hr ▸ exec_sext_of_mem a hb s

/-- Settles O38: in S the answer's bits are those of the sign extension. -/
theorem sextResults : Obligations.SextResults := by
  intro a b s
  refine ⟨decode_requestWord 0x11 a b, fun hb => ⟨_, exec_sext_of_mem a hb s, fun n hn => ?_⟩,
    fun hb => exec_sext_of_not_mem a hb s⟩
  split
  next hle => exact getLsbD_sextFrom_of_le a hle hn
  next hgt => exact getLsbD_sextFrom_of_lt a (Nat.lt_of_not_le hgt) hn

/-- Settles O39: the bytes are kept up to the position and filled above it, and the sign of both numbers is bit 7 of the
byte there. -/
theorem sextByteByByte : Obligations.SextByteByByte := by
  intro a b s hb
  have hsign : (byteLe a b.toNat).getLsbD 7 = a.getLsbD (8 * b.toNat + 7) := getLsbD_byteLe a b.toNat (by decide)
  refine ⟨_, exec_sext_of_mem a hb s, fun m hm => ?_, ?_, toInt_sextFrom a (signPlace_lt_256 hb), fun a' h => ?_⟩
  · split
    next hle => exact byteLe_sextFrom_of_le a hle hm
    next hgt => exact byteLe_sextFrom_of_lt a (Nat.lt_of_not_le hgt) hm
  · rw [hsign]
    exact toNat_sextFrom a _
  · rw [exec_sext_of_mem a' hb, exec_sext_of_mem a hb, sextFrom_congr_bytes h]

/-- Settles O40: the sign bit is bit 31 of limb j, so every limb lies wholly at or below it, or wholly above. -/
theorem sextAtLimbEnds : Obligations.SextAtLimbEnds := by
  intro a s j hj
  have hmem : 4 * j + 3 ∈ Config.sextPositions := (mem_sextPositions_iff _).mpr (by omega)
  have hplace : 8 * (4 * j + 3) + 7 = 32 * j + 31 := by omega
  have hsign : (limb a j).getLsbD 31 = a.getLsbD (32 * j + 31) := getLsbD_limb a j 31
  have hexec := exec_sext_ofNat a hmem s
  rw [hplace] at hexec
  refine ⟨_, hexec, fun i hi => limb_sextFrom_of_le a (by omega) (by omega), fun i hi hij => ?_, ?_⟩
  · rw [hsign]
    exact limb_sextFrom_of_lt a (by omega) hi
  · rintro rfl
    exact sextFrom_255 a

/-- Settles O41: the sign bit lies in limb 0, and every other limb lies above it. -/
theorem sextInsideLimbZero : Obligations.SextInsideLimbZero := by
  intro a s k hk
  have hmem : k ∈ Config.sextPositions := (mem_sextPositions_iff k).mpr (by omega)
  have hin : 8 * k + 7 < 32 := by omega
  have hsign : (limb a 0).getLsbD (8 * k + 7) = a.getLsbD (8 * k + 7) := by
    rw [getLsbD_limb, decide_eq_true hin, Bool.true_and, Nat.mul_zero, Nat.zero_add]
  simp only [hsign]
  exact ⟨_, exec_sext_ofNat a hmem s, limb_zero_sextFrom a _,
    fun i hi hpos => limb_sextFrom_of_lt a (by omega) hi⟩

/-- Settles O42: the 21 positions and every number from 32 on are outside S. -/
theorem sextOutsideSetErrs : Obligations.SextOutsideSetErrs := by
  intro a b s h
  have hout : b.toNat ∉ Config.sextPositions := by
    rw [mem_sextPositions_iff]
    simp only [List.mem_cons, List.not_mem_nil, or_false] at h
    omega
  exact ⟨exec_sext_of_not_mem a hout s, rfl⟩

/-- Settles O44: the identities of sign extension, and the worked values evaluated. -/
theorem sextCornerCases : Obligations.SextCornerCases := by
  intro s
  have htop : 8 * (31 : Word).toNat + 7 = 255 := rfl
  refine ⟨fun x => exec_sext_of_eq (by decide) (htop ▸ sextFrom_255 x) s,
    fun x k hk => ⟨_, exec_sext_of_mem x hk s, exec_sext_of_eq hk (sextFrom_sextFrom x _) s⟩,
    fun k hk => ⟨exec_sext_of_eq hk (sextFrom_zero _) s, exec_sext_of_eq hk (sextFrom_allOnes _) s⟩,
    fun x => ⟨exec_sext_of_not_mem x (by decide) s, exec_sext_of_not_mem x (by decide) s⟩,
    fun x k hk hbyte => ⟨_, exec_sext_of_mem x hk s, fun m hm hkm => ?_⟩,
    exec_sext_of_eq (by decide) (by decide) s, exec_sext_of_eq (by decide) (by decide) s,
    exec_sext_of_eq (by decide) (by decide) s, exec_sext_of_eq (by decide) (by decide) s⟩
  have hsign : (byteLe x k.toNat).getLsbD 7 = true := by
    rcases hbyte with h | h <;> rw [h] <;> rfl
  rw [byteLe_sextFrom_of_lt x hkm hm, if_pos hsign]

end Sys2Proof.Machine
end

section
/-! Proofs for the error statements (60_exceptions.md): the error table as the condition under which a step faults, the
completion of everything else, and what follows an error. -/

namespace Sys2Proof.Machine

/-! ### The error table (R220, R221, R223) -/

/-- Driving the request that stands on the input ports changes nothing. -/
theorem drive_request_self (s : State) : s.drive s.request = s := by
  simp only [State.drive, State.request, opField_requestWord, aField_requestWord, bField_requestWord]

/-- A step is the presentation of the request on the input ports. -/
theorem present_request (s : State) : present s s.request = step s := by
  rw [present, drive_request_self]

/-- A step faults with the entry of the error table, and where there is none it answers a next state (R220, R221). -/
theorem step_cases_errorOf (s : State) :
    (∃ f, errorOf s.request = some f ∧ step s = .fault f) ∨ (errorOf s.request = none ∧ ∃ t, step s = .next t) := by
  cases h : errorOf s.request with
  | none => exact .inr ⟨rfl, present_request s ▸ present_of_errorOf_eq_none h s⟩
  | some f => exact .inl ⟨f, rfl, present_request s ▸ present_of_errorOf_eq_some h s⟩

/-- A step faults with f exactly where f is the entry of the error table (R220). -/
theorem step_eq_fault_iff (s : State) (f : Fault) : step s = .fault f ↔ errorOf s.request = some f := by
  rcases step_cases_errorOf s with ⟨g, herr, hstep⟩ | ⟨herr, t, hstep⟩
  · rw [herr, hstep, Option.some_inj, Host.Outcome.fault.injEq]
  · rw [herr, hstep]
    exact iff_of_false nofun nofun

/-- No step is a refusal (R220, R221). -/
theorem step_ne_refused (s : State) (x : Refusal) : step s ≠ .refused x := by
  rcases step_cases_errorOf s with ⟨f, -, hstep⟩ | ⟨-, t, hstep⟩ <;> rw [hstep] <;> exact nofun

/-- The entry of a reserved op code, whatever `b` holds (R223). -/
theorem errorOf_of_reserved {req : BitVec 517} (h : 0x12 ≤ (opField req).toNat) :
    errorOf req = some (.illegalOp (opField req)) := if_pos h

/-- The entry of a SEXT with its position outside S (R220). -/
theorem errorOf_of_sext {req : BitVec 517} (hop : opField req = 0x11)
    (hb : (bField req).toNat ∉ Config.sextPositions) :
    errorOf req = some (.undefinedBytePosition (bField req)) := by
  have hassigned : ¬0x12 ≤ (opField req).toNat := by rw [hop]; decide
  rw [errorOf, if_neg hassigned, if_pos ⟨hop, hb⟩]

/-- Settles O46: a step faults with the entry of the error table, whose two rows are the two alternatives. -/
theorem errorTableIsComplete : Obligations.ErrorTableIsComplete := by
  refine ⟨fun s f => ?_, step_ne_refused, fun f => by cases f <;> rfl⟩
  have hop : opField s.request = s.op := opField_requestWord ..
  have hbf : bField s.request = s.b := bField_requestWord ..
  rw [step_eq_fault_iff]
  constructor
  · intro h
    rcases errorOf_eq_some h with ⟨hreserved, rfl⟩ | ⟨hsext, hb, rfl⟩
    · exact .inl ⟨_, rfl, hop.symm, hreserved⟩
    · exact .inr ⟨_, rfl, hbf.symm, hop.symm.trans hsext, hb⟩
  · rintro (⟨op, rfl, rfl, hreserved⟩ | ⟨b, rfl, rfl, hsext, hb⟩)
    · rw [← hop] at hreserved ⊢
      exact errorOf_of_reserved hreserved
    · rw [← hbf] at hb ⊢
      exact errorOf_of_sext (hop.trans hsext) hb

/-! ### What completes (R221) -/

/-- Settles O47: a step with no entry in the error table has a next state, which is a valid response. -/
theorem otherRequestsSucceed : Obligations.OtherRequestsSucceed := by
  intro s h
  obtain ⟨t, ht⟩ : ∃ t, step s = .next t := present_request s ▸ present_of_errorOf_eq_none h s
  obtain ⟨i, -, hexec⟩ := step_next ht
  obtain ⟨v, f, rfl, -⟩ := exec_next hexec
  exact ⟨v, f, ht⟩

/-- Settles O48: the one way not to complete is a SEXT with its position outside S. -/
theorem everyInstrCompletes : Obligations.EveryInstrCompletes := by
  intro i s hpos
  rcases exec_cases i s with ⟨-, v, hexec⟩ | ⟨-, p, hexec⟩ | ⟨a, b, rfl, hb, -⟩
  · exact ⟨v, 0, hexec s⟩
  · exact ⟨zextBit p, BitVec.ofBool p, hexec s⟩
  · rw [(isSextPosition_iff b).mpr (hpos a b rfl)] at hb
    cases hb

/-! ### What an error leaves behind (R222, R227) -/

/-- The code of an error is not that of a valid response (R220). -/
theorem errCode_ne_zero (f : Fault) : f.errCode ≠ 0 := by
  cases f with
  | illegalOp => exact (by decide : (1 : BitVec 2) ≠ 0)
  | undefinedBytePosition => exact (by decide : (2 : BitVec 2) ≠ 0)

/-- Settles O49: the host samples the error's response, and each later request gets the answer it gets alone. -/
theorem erroneousResponse : Obligations.ErroneousResponse := by
  intro n s f h
  refine ⟨by rw [h]; rfl, errCode_ne_zero f, fun s' later => ?_⟩
  rw [issueAll, present_request, h, issueAll_eq_map_present _ s', issueAll_eq_map_present s' s']

end Sys2Proof.Machine
end
